-- ==== Sys2Proof/Word.lean ====
section
/-! DEFINITION. The word types of the block (00_scope R11: every value is unsigned, bit 0 is the least significant)
and the set of selectable operand widths (00_scope R8, 30_encoding R103). -/

namespace Sys2Proof

/-- A byte of a frame or a buffer (R11, R90). -/
abbrev Byte := BitVec 8

/-- A 32-bit register of the window, and a command word (R23, R101). -/
abbrev Word := BitVec 32

/-- The 64-bit value ports VALUE_IN and VALUE_OUT (R9, R25, R34). -/
abbrev DWord := BitVec 64

/-- The operand widths a command can select: "No width other than those four can be selected" (R8, R103). -/
inductive Width where
  | w8
  | w16
  | w32
  | w64
deriving DecidableEq, Repr

end Sys2Proof
end

