-- ==== Sys2Proof/Syntax.lean ====
section
/-! DEFINITION. The instructions: one constructor per row of spec/opcode_table.json (30_encoding R102 to R104). -/

namespace Sys2Proof

/-- The commands a 32-bit word written to CMD can be. The width is the only operand in the word (R101); the ignored
bits are not part of the instruction (R104: "A word with reserved bits set decodes as if they were 0"). -/
inductive Instr where
  /-- Row ENCODE: OP = 01, `w` from WSEL (R120). -/
  | encode (w : Width)
  /-- Row DECODE: OP = 10, `w` from WSEL (R140). -/
  | decode (w : Width)
  /-- Row ILLEGAL_OP0: OP = 00, WSEL not read (R164). -/
  | illegalOp0
  /-- Row ILLEGAL_OP3: OP = 11, WSEL not read (R164). -/
  | illegalOp3
deriving DecidableEq, Repr

end Sys2Proof
end

