-- ==== Sys2Proof/WellFormed.lean ====
section
/-! DEFINITION. What is well formed: instructions (each term of the type is), and command words as software writes them
(10_state R24: "software writes 0" in the reserved bits). Accesses of the window are checked in Machine/Ops.lean. -/

namespace Sys2Proof

/-- Every instruction is well formed: "Every WSEL value is legal" (R24, R103), and a reserved OP is an encoding with a
meaning of its own (R104, R164). -/
def Instr.wellFormed : Instr → Bool
  | .encode _ => true
  | .decode _ => true
  | .illegalOp0 => true
  | .illegalOp3 => true

/-- The bits of a command word that play no part: 31:6 and 3:2 (R102). -/
def ignoredBits : Word := 0xFFFFFFCC#32

/-- A command word as software writes it: the reserved bits 0 (R24, R104). The block does not check it. -/
def canonicalWord (c : Word) : Bool := c &&& ignoredBits == 0#32

end Sys2Proof
end

