-- ==== Sys2Proof/Decode.lean ====
section
/-! DEFINITION. The command word: decoder, then encoder, from 30_encoding R102 to R104 and R107, and their forms over
bytes. The decoder over words is total (R104: all 2^32 command words are covered); over bytes it rejects by name. -/

namespace Sys2Proof

/-- The operand width W in bits (R103). -/
def Width.bits : Width → Nat
  | .w8 => 8
  | .w16 => 16
  | .w32 => 32
  | .w64 => 64

/-- The OP field, bits 1:0 (R102). -/
def opField (c : Word) : BitVec 2 := c.extractLsb' 0 2

/-- The WSEL field, bits 5:4 (R102). -/
def wselField (c : Word) : BitVec 2 := c.extractLsb' 4 2

/-- `WSEL_MAP` (R103, R160). -/
def wselMap (b : BitVec 2) : Width :=
  if b = 0b00#2 then .w8
  else if b = 0b01#2 then .w16
  else if b = 0b10#2 then .w32
  else .w64

/-- The instruction a command word is (R104). Bits 31:6 and 3:2 play no part. -/
def decodeWord (c : Word) : Instr :=
  if opField c = 0b01#2 then .encode (wselMap (wselField c))
  else if opField c = 0b10#2 then .decode (wselMap (wselField c))
  else if opField c = 0b00#2 then .illegalOp0
  else .illegalOp3

/-- Why a byte string is no command: "It has no other length" than 32 bits (R101, R62). -/
inductive DecodeReject where
  /-- Fewer than four bytes. -/
  | truncated
  /-- More than four bytes. -/
  | overlong
deriving DecidableEq, Repr

/-- Four bytes as a word, the byte at the lowest address in bits 7:0 (R64; for the command word, assumption log 14). -/
def wordOfBytes (b0 b1 b2 b3 : Byte) : Word := b3 ++ b2 ++ b1 ++ b0

/-- The decoder over bytes, total on any byte string. -/
def decodeBytes : List Byte → Except DecodeReject Instr
  | [b0, b1, b2, b3] => .ok (decodeWord (wordOfBytes b0 b1 b2 b3))
  | _ :: _ :: _ :: _ :: _ :: _ => .error .overlong
  | _ => .error .truncated

/-- The `n` bytes of the number `w`, the least significant first (assumption log 14). -/
def layBytes : Nat → Nat → List Byte
  | 0, _ => []
  | n + 1, w => BitVec.ofNat 8 w :: layBytes n (w >>> 8)

/-- What the decoder reads from a row of `nbits` bits of the opcode table whose bits are `w`: laid out in at least the
four bytes of a command word, every bit above `nbits` 0. -/
def decodeTableWord (nbits w : Nat) : Option Instr :=
  match decodeBytes (layBytes (max 4 ((nbits + 7) / 8)) (w % 2 ^ nbits)) with
  | .ok i => some i
  | .error _ => none

/-- WSEL of a width (R103). -/
def wselOf : Width → BitVec 2
  | .w8 => 0b00#2
  | .w16 => 0b01#2
  | .w32 => 0b10#2
  | .w64 => 0b11#2

/-- A command word from its fields, reserved bits 0 (R102). -/
def commandWord (wsel op : BitVec 2) : Word := 0#26 ++ wsel ++ 0#2 ++ op

/-- The command word of an instruction, as software writes it (R107). -/
def encode : Instr → Word
  | .encode w => commandWord (wselOf w) 0b01#2
  | .decode w => commandWord (wselOf w) 0b10#2
  | .illegalOp0 => commandWord 0b00#2 0b00#2
  | .illegalOp3 => commandWord 0b00#2 0b11#2

/-- The same word as four bytes, the least significant first (assumption log 14). -/
def encodeBytes (i : Instr) : List Byte := layBytes 4 (encode i).toNat

end Sys2Proof
end

