-- ==== Sys2Proof/Config.lean ====
section
/-! DEFINITION. The parameters of the block: the constants of the parameter table 00_scope R9, and the values the spec
leaves OPEN or UNSPEC, as opaque constants that no proof can evaluate (assumption log 2, 3 and 6). -/

namespace Sys2Proof.Config

/-- `GROUP_BITS`, payload bits per byte (R9). -/
abbrev groupBits : Nat := 7

/-- `MAX_BYTES`, the hard byte ceiling of a frame (R9). -/
abbrev maxBytes : Nat := 9

/-- `MAX_BITS`, the effective value range in bits (R9). -/
abbrev maxBits : Nat := 63

/-- Bytes of the register window (R9, R23). -/
abbrev windowBytes : Nat := 64

/-- FREE VALUE. The `n`-th draw: the word that a read of UNSPEC bits meets (R13 `UNSPEC`, R67). Assumption log 3. -/
opaque draw : Nat → Word

/-- FREE VALUE. How many host steps come before the completion of the command accepted as number `n`
(R9 "completion latency | OPEN, finite, not fixed", R231). Assumption log 2. -/
opaque latency : Nat → Nat

/-- FREE VALUE. Which 64-byte window of the bus the block sits in (R9, R60: `BASE_ADDR` is OPEN). Assumption log 6. -/
opaque windowIndex : Nat

/-- `BASE_ADDR`, "aligned to 64 bytes" (R60). -/
def baseAddr : Nat := windowBytes * windowIndex

end Sys2Proof.Config
end

