-- ==== Sys2Proof/Machine/State.lean ====
section
/-! DEFINITION. The state of the block (10_state R44) and of the model's bus, the reasons a step can stop, and reset. -/

namespace Sys2Proof.Machine

/-- The reasons the machine stops with a fault: none. "No code stops the block, traps the host, changes a mode, saves a
return address or vectors anywhere" (60_exceptions R184; assumption log 16). No one raises one; safe. -/
inductive Fault where
deriving DecidableEq, Repr

/-- The reasons a step has no meaning. -/
inductive Refusal where
  /-- An instruction with no meaning in the model, by its mnemonic. Raised by an arm of `exec` only; no arm raises it.
  Safe. -/
  | notModelled (mnemonic : String)
  /-- A host access that is not 32 bits wide, or not at a multiple of 4: "A model refuses such an access" (R62, U14).
  Raised by the host's turn. Safe (assumption log 5). -/
  | undefinedAccess
deriving DecidableEq, Repr

/-- The status codes of STATUS.RESULT (R180). The numbers are in Machine/Flags.lean; 5, 6 and 7 are never produced
(R28, U10; assumption log 13). -/
inductive ResultCode where
  | ok
  | overflow
  | bufferTooSmall
  | notMinimal
  | illegalCommand
deriving DecidableEq, Repr

/-- `S.op` of the snapshot (R40): the block's only two operations (R2). -/
inductive Op where
  | encode
  | decode
deriving DecidableEq, Repr

/-- The snapshot an accepted command takes of its operands (R40). -/
structure Snapshot where
  /-- `S.op`. -/
  op : Op
  /-- `S.W`. -/
  w : Width
  /-- `S.V`, all 64 bits of VALUE_IN. -/
  v : DWord
  /-- `S.C`, from OUT_CAP. -/
  c : Word
  /-- `S.L`, from IN_LEN. -/
  l : Word
  /-- `S.IN[0..8]`, from IN_BUF. -/
  inp : Vector Byte 9
deriving DecidableEq, Repr

/-- How an operation ends: `finish Ok` with its results, or `raise <Code>()` (R13, R163). -/
inductive OpEnd where
  /-- ENCODE ends Ok with this frame (R125, R126). -/
  | encoded (frame : List Byte)
  /-- DECODE ends Ok with this value and this many bytes consumed (R146). -/
  | decoded (value : DWord) (count : Nat)
  /-- The operation raises this code. -/
  | raised (code : ResultCode)
deriving DecidableEq, Repr

/-- What comes to the block from outside (R17, R60, R108, R210; assumption log 1). Offsets count from `BASE_ADDR`. -/
inductive BusEvent where
  /-- A host read of `nbytes` bytes at an offset of the window (R62). -/
  | read (off : BitVec 6) (nbytes : Nat)
  /-- A host write of `nbytes` bytes at an offset of the window (R62). -/
  | write (off : BitVec 6) (nbytes : Nat) (v : Word)
  /-- The host's `WAIT`: read STATUS until bit 0 is 0 (R108; assumption log 8). -/
  | wait
  /-- The reset input (R210). -/
  | reset
deriving DecidableEq, Repr

/-- The state: R44's tuple, and the model's own fields for the host and the free values. -/
structure State where
  /-- VALUE_IN = VALUE_IN_HI:VALUE_IN_LO (R25). -/
  valueIn : DWord
  /-- OUT_CAP (R26). -/
  outCap : Word
  /-- IN_LEN (R27). -/
  inLen : Word
  /-- IN_BUF[0..8] (R30). -/
  inBuf : Vector Byte 9
  /-- STATUS.BUSY (R28). -/
  busy : Bool
  /-- STATUS.DONE (R28). -/
  done : Bool
  /-- STATUS.RESULT (R28, R180). -/
  result : ResultCode
  /-- OUT_BUF[0..8]; `none` is UNSPEC (R32, R44). -/
  outBuf : Vector (Option Byte) 9
  /-- OUT_LEN.COUNT; `none` is UNSPEC (R33, R44). -/
  outLen : Option (BitVec 4)
  /-- VALUE_OUT; `none` is UNSPEC (R34, R44). -/
  valueOut : Option DWord
  /-- The snapshot of the command in flight (R40, R44). -/
  snap : Option Snapshot
  /-- MODEL'S OWN: what comes from outside, oldest first (assumption log 1). -/
  bus : List BusEvent
  /-- MODEL'S OWN: the data of the host's reads, newest first (assumption log 1). -/
  replies : List Word
  /-- MODEL'S OWN: how many more host steps come before the command in flight completes (R231; assumption log 2). -/
  hold : Nat
  /-- MODEL'S OWN: the index of the next free value (assumption log 2 and 3). -/
  fresh : Nat
deriving DecidableEq, Repr

/-- All nine bytes of OUT_BUF UNSPEC (R32). -/
def unspecBuf : Vector (Option Byte) 9 := Vector.replicate 9 none

/-- The state right after reset: every value of R211. The model's own fields start empty and at 0, DESIGN CHOICE
(assumption log 4). -/
def State.reset : State where
  valueIn := 0#64
  outCap := 0#32
  inLen := 0#32
  inBuf := Vector.replicate 9 0#8
  busy := false
  done := false
  result := .ok
  outBuf := unspecBuf
  outLen := none
  valueOut := none
  snap := none
  bus := []
  replies := []
  hold := 0
  fresh := 0

end Sys2Proof.Machine
end

