-- ==== Sys2Proof/Machine/Flags.lean ====
section
/-! DEFINITION. The flags of the block, STATUS.BUSY, STATUS.DONE and STATUS.RESULT (10_state R28, R36): their number
codes, the STATUS word, and the only updates that write them besides reset. -/

namespace Sys2Proof.Machine

/-- The 3-bit code of STATUS.RESULT (R180). -/
def ResultCode.code : ResultCode → BitVec 3
  | .ok => 0#3
  | .overflow => 1#3
  | .bufferTooSmall => 2#3
  | .notMinimal => 3#3
  | .illegalCommand => 4#3

/-- The STATUS word (R28): RESULT in bits 6:4, DONE in bit 1, BUSY in bit 0, every other bit 0. -/
def State.statusWord (s : State) : Word :=
  0#25 ++ s.result.code ++ 0#2 ++ BitVec.ofBool s.done ++ BitVec.ofBool s.busy

/-- The flags at acceptance: "RESULT keeps its old value, meaning nothing" (R160). -/
def State.flagsAccepted (s : State) : State := { s with busy := true, done := false }

/-- The flags at the end of a command (R162, R164). -/
def State.flagsCompleted (s : State) (code : ResultCode) : State :=
  { s with busy := false, done := true, result := code }

end Sys2Proof.Machine
end

