-- ==== Sys2Proof/Machine/Operands.lean ====
section
/-! DEFINITION. Operands: the wire-format parameters of a width (30_encoding R93, R94), operand assembly (R105, R132),
the snapshot (10_state R40), and the byte lanes of the registers (20_memory R64). -/

namespace Sys2Proof.Machine

/-- `budget(W) = min(9, ceil(W/7))` (R93). -/
def budget (W : Nat) : Nat := min Config.maxBytes ((W + (Config.groupBits - 1)) / Config.groupBits)

/-- `limit_bits(W) = min(W, 63)` (R94; assumption log 18). -/
def limitBits (W : Nat) : Nat := min W Config.maxBits

/-- ENCODE's operand V: `zext_64(VALUE[W-1:0])` below W = 64, else VALUE (R105, R132). -/
def operandValue (W : Nat) (value : DWord) : DWord :=
  if W < 64 then (value.setWidth W).setWidth 64 else value

/-- The copy of the operands taken at acceptance (R40, R160). -/
def State.snapshot (s : State) (op : Op) (w : Width) : Snapshot where
  op := op
  w := w
  v := s.valueIn
  c := s.outCap
  l := s.inLen
  inp := s.inBuf

/-- Byte lane `k` of a register word: bits 8k+7 : 8k (R64). -/
def lane (k : Nat) (v : Word) : Byte := v.extractLsb' (8 * k) 8

/-- A register word from its four byte lanes, lane 0 in bits 7:0 (R64, R66). -/
def laneWord (b0 b1 b2 b3 : Byte) : Word := b3 ++ b2 ++ b1 ++ b0

/-- A buffer byte as a read finds it: the byte it holds, or lane `k` of the draw where it is UNSPEC (R13, R63). -/
def drawnByte (d : Word) (k : Nat) (b : Option Byte) : Byte := b.getD (lane k d)

end Sys2Proof.Machine
end

