-- ==== Sys2Proof/Machine/Ops.lean ====
section
/-! DEFINITION. The shared operations: the register window (10_state R23, 20_memory R61, R63), accepting a command
(42_command R160), turning one away (R161), the illegal path (R164), the end of an operation (R162, R163: what other
machines do by taking an exception, this block does by ending with a status code, R184), and reset (70_reset R210). -/

namespace Sys2Proof.Machine

/-! ## Commands -/

/-- Every result register UNSPEC (R160, R163, R164). -/
def State.clearResults (s : State) : State :=
  { s with outBuf := unspecBuf, outLen := none, valueOut := none }

/-- A CMD write while BUSY = 1 "is ignored. It changes no state, whatever the word" (R161, R187); else it leaves `t`. -/
def whenIdle (s t : State) : Host.Outcome State Fault Refusal :=
  if s.busy then .next s else .next t

/-- Accepting a command (R160). How many host steps come before its completion is a free value (assumption log 2). -/
def State.accept (s : State) (op : Op) (w : Width) : State :=
  { s.clearResults.flagsAccepted with
    snap := some (s.snapshot op w), hold := Config.latency s.fresh, fresh := s.fresh + 1 }

/-- The illegal command: completes within the write, "no snapshot is taken" (R164). -/
def State.illegal (s : State) : State := s.clearResults.flagsCompleted .illegalCommand

/-- OUT_BUF after an ENCODE that ends Ok: the frame, and UNSPEC beyond it (R32, R163). -/
def frameBuf (f : List Byte) : Vector (Option Byte) 9 :=
  #v[f[0]?, f[1]?, f[2]?, f[3]?, f[4]?, f[5]?, f[6]?, f[7]?, f[8]?]

/-- The status code an operation ends with (R163). -/
def OpEnd.code : OpEnd → ResultCode
  | .encoded _ => .ok
  | .decoded _ _ => .ok
  | .raised c => c

/-- What the end of an operation leaves in the result registers (the table of R163). -/
def State.writeResults (s : State) : OpEnd → State
  | .encoded f => { s with outBuf := frameBuf f, outLen := some (BitVec.ofNat 4 f.length), valueOut := none }
  | .decoded v n => { s with outBuf := unspecBuf, outLen := some (BitVec.ofNat 4 n), valueOut := some v }
  | .raised _ => s.clearResults

/-- The atomic update that completes a command: results, flags, "snapshot discarded" (R162, R68). -/
def State.finish (s : State) (e : OpEnd) : State :=
  { (s.writeResults e).flagsCompleted e.code with snap := none, hold := 0 }

/-! ## Reset -/

/-- The reset input: every register and field to its reset value at once, any snapshot discarded (R210, R211). What
lies outside the block, the host's side of the bus, stays, and so does the index of the next free value. -/
def State.blockReset (s : State) : State :=
  { State.reset with bus := s.bus, replies := s.replies, fresh := s.fresh }

/-! ## The register window -/

/-- "The only defined access is a 32-bit access at an offset that is a multiple of 4" (R62). -/
def definedAccess (off : BitVec 6) (nbytes : Nat) : Bool := nbytes == 4 && off.toNat % 4 == 0

/-- The sixteen registers of the window (R23). -/
inductive Reg where
  | cmd | status | valueInLo | valueInHi | outCap | inLen | inBuf0 | inBuf1 | inBuf2
  | outBuf0 | outBuf1 | outBuf2 | outLen | valueOutLo | valueOutHi | reserved
deriving DecidableEq, Repr

/-- The access classes (R23, R63). -/
inductive Access where
  | rw | ro | wo | res
deriving DecidableEq, Repr

/-- Each register's offset (R23). -/
def Reg.offset : Reg → BitVec 6
  | .cmd => 0x00#6
  | .status => 0x04#6
  | .valueInLo => 0x08#6
  | .valueInHi => 0x0C#6
  | .outCap => 0x10#6
  | .inLen => 0x14#6
  | .inBuf0 => 0x18#6
  | .inBuf1 => 0x1C#6
  | .inBuf2 => 0x20#6
  | .outBuf0 => 0x24#6
  | .outBuf1 => 0x28#6
  | .outBuf2 => 0x2C#6
  | .outLen => 0x30#6
  | .valueOutLo => 0x34#6
  | .valueOutHi => 0x38#6
  | .reserved => 0x3C#6

/-- The registers in the order of the window (R23). -/
def Reg.all : List Reg :=
  [.cmd, .status, .valueInLo, .valueInHi, .outCap, .inLen, .inBuf0, .inBuf1, .inBuf2,
   .outBuf0, .outBuf1, .outBuf2, .outLen, .valueOutLo, .valueOutHi, .reserved]

/-- "the register is the one whose offset is `off & 0x3C`" (R61). -/
def regAt (off : BitVec 6) : Reg :=
  (Reg.all.find? fun r => r.offset == off &&& 0x3C#6).getD .reserved

/-- The access class of each register (R23). -/
def Reg.access : Reg → Access
  | .cmd => .wo
  | .status => .ro
  | .valueInLo | .valueInHi | .outCap | .inLen | .inBuf0 | .inBuf1 | .inBuf2 => .rw
  | .outBuf0 | .outBuf1 | .outBuf2 | .outLen | .valueOutLo | .valueOutHi => .ro
  | .reserved => .res

/-- The word a read of a register returns, where `d` is the draw that UNSPEC bits take (R23 to R35, R63). -/
def State.readReg (s : State) (d : Word) : Reg → Word
  | .cmd => 0#32
  | .status => s.statusWord
  | .valueInLo => s.valueIn.extractLsb' 0 32
  | .valueInHi => s.valueIn.extractLsb' 32 32
  | .outCap => s.outCap
  | .inLen => s.inLen
  | .inBuf0 => laneWord s.inBuf[0] s.inBuf[1] s.inBuf[2] s.inBuf[3]
  | .inBuf1 => laneWord s.inBuf[4] s.inBuf[5] s.inBuf[6] s.inBuf[7]
  | .inBuf2 => laneWord s.inBuf[8] 0#8 0#8 0#8
  | .outBuf0 => laneWord (drawnByte d 0 s.outBuf[0]) (drawnByte d 1 s.outBuf[1])
                  (drawnByte d 2 s.outBuf[2]) (drawnByte d 3 s.outBuf[3])
  | .outBuf1 => laneWord (drawnByte d 0 s.outBuf[4]) (drawnByte d 1 s.outBuf[5])
                  (drawnByte d 2 s.outBuf[6]) (drawnByte d 3 s.outBuf[7])
  | .outBuf2 => laneWord (drawnByte d 0 s.outBuf[8]) 0#8 0#8 0#8
  | .outLen => 0#28 ++ s.outLen.getD (d.extractLsb' 0 4)
  | .valueOutLo => (s.valueOut.map fun v => v.extractLsb' 0 32).getD d
  | .valueOutHi => (s.valueOut.map fun v => v.extractLsb' 32 32).getD d
  | .reserved => 0#32

/-- What a write stores: the RW registers take `v` less its reserved bits; RO and RES registers ignore it
(R25 to R27, R30, R35, R63). CMD has no storage (R24); the command it issues is run in Machine/Bus.lean. -/
def State.storeReg (s : State) (v : Word) : Reg → State
  | .cmd => s
  | .status => s
  | .valueInLo => { s with valueIn := s.valueIn.extractLsb' 32 32 ++ v }
  | .valueInHi => { s with valueIn := v ++ s.valueIn.extractLsb' 0 32 }
  | .outCap => { s with outCap := v }
  | .inLen => { s with inLen := v }
  | .inBuf0 => { s with inBuf := (((s.inBuf.set 0 (lane 0 v)).set 1 (lane 1 v)).set 2 (lane 2 v)).set 3 (lane 3 v) }
  | .inBuf1 => { s with inBuf := (((s.inBuf.set 4 (lane 0 v)).set 5 (lane 1 v)).set 6 (lane 2 v)).set 7 (lane 3 v) }
  | .inBuf2 => { s with inBuf := s.inBuf.set 8 (lane 0 v) }
  | .outBuf0 => s
  | .outBuf1 => s
  | .outBuf2 => s
  | .outLen => s
  | .valueOutLo => s
  | .valueOutHi => s
  | .reserved => s

/-- A defined host read: the word goes to the host, and no other state changes (R63, R67). Each read has a draw of its
own: "A read of an UNSPEC register returns an independent draw each time" (R67; assumption log 3). -/
def State.busRead (s : State) (r : Reg) : State :=
  { s with replies := s.readReg (Config.draw s.fresh) r :: s.replies, fresh := s.fresh + 1 }

/-! ## Bus addresses -/

/-- The register offset of a bus address, where it reaches the block (R61). -/
def windowOffset (a : Nat) : Option (BitVec 6) :=
  if Config.baseAddr ≤ a ∧ a ≤ Config.baseAddr + 0x3F then some (BitVec.ofNat 6 (a - Config.baseAddr)) else none

/-- The host's `MemRead(a, n)` put last in the queue; an address outside the window is not the block's (R13, R61, U15). -/
def State.memRead (s : State) (a n : Nat) : State :=
  match windowOffset a with
  | some off => { s with bus := s.bus ++ [.read off n] }
  | none => s

/-- The host's `MemWrite(a, n, v)` put last in the queue (R13, R61, U15). -/
def State.memWrite (s : State) (a n : Nat) (v : Word) : State :=
  match windowOffset a with
  | some off => { s with bus := s.bus ++ [.write off n v] }
  | none => s

/-! ## The host's notation -/

/-- `WR <REG>, <imm32>` (R108). -/
def wr (r : Reg) (v : Word) : BusEvent := .write r.offset 4 v

/-- `RD <REG>` (R108). -/
def rd (r : Reg) : BusEvent := .read r.offset 4

/-- `VENC.W<w> v, c` (R109). -/
def venc (w : Width) (v : DWord) (c : Word) : List BusEvent :=
  [wr .valueInLo (v.extractLsb' 0 32), wr .valueInHi (v.extractLsb' 32 32), wr .outCap c,
   wr .cmd (encode (.encode w)), .wait, rd .status, rd .outLen, rd .outBuf0, rd .outBuf1, rd .outBuf2]

/-- `VDEC.W<w> b0..b8, l` (R109). -/
def vdec (w : Width) (b : Vector Byte 9) (l : Word) : List BusEvent :=
  [wr .inBuf0 (laneWord b[0] b[1] b[2] b[3]), wr .inBuf1 (laneWord b[4] b[5] b[6] b[7]),
   wr .inBuf2 (laneWord b[8] 0#8 0#8 0#8), wr .inLen l,
   wr .cmd (encode (.decode w)), .wait, rd .status, rd .outLen, rd .valueOutLo, rd .valueOutHi]

end Sys2Proof.Machine
end

