-- ==== Sys2Proof/Machine/Decoder.lean ====
section
/-! DEFINITION. DECODE: the command (42_command R160, R161) and the varint_decoder datapath, 41_decode R140 step by step. -/

namespace Sys2Proof.Machine

/-- The payload of a wire byte (R90, R142). -/
def chunkOf (b : Byte) : BitVec 7 := b.extractLsb' 0 7

/-- The continuation bit of a wire byte (R90). -/
def contOf (b : Byte) : Bool := b.getLsbD 7

/-- Step 6: exhausted without a terminal byte (R147). -/
def exhausted (B L : Nat) : OpEnd := if L < B then .raised .bufferTooSmall else .raised .overflow

/-- The scan of R140 from byte `i` on. The list holds b[i..8]; `B` is the budget, `limit` the bit limit, `L` the input
length. Order within one byte (R186): scan bound (R141), shift limit, chunk range (R143), accumulate (R144), terminal
byte and minimality (R145), success (R146). -/
def scan (B limit L : Nat) : List Byte → Nat → Nat → DWord → OpEnd
  | [], _, _, _ => exhausted B L
  | b :: rest, i, shift, value =>
    if ¬ (i < L ∧ i < B) then exhausted B L
    else if shift ≥ limit then .raised .overflow
    else if limit - shift < 7 ∧ chunkOf b >>> (limit - shift) ≠ 0#7 then .raised .overflow
    else
      let value' := value ||| ((chunkOf b).setWidth 64 <<< shift)
      if contOf b then scan B limit L rest (i + 1) (shift + Config.groupBits) value'
      else if i > 0 ∧ b = 0x00#8 then .raised .notMinimal
      else .decoded value' (i + 1)

/-- `DECODE(W, b[0..8], L)` (R140). -/
def decodeOp (W : Nat) (b : Vector Byte 9) (L : Word) : OpEnd :=
  scan (budget W) (limitBits W) L.toNat b.toList 0 0 0#64

/-- The CMD write DECODE (R160, R161). -/
def execDecode (w : Width) (s : State) : Host.Outcome State Fault Refusal :=
  whenIdle s (s.accept .decode w)

end Sys2Proof.Machine
end

