-- ==== Sys2Proof/Machine/Encoder.lean ====
section
/-! DEFINITION. ENCODE: the command (42_command R160, R161) and the varint_encoder datapath, 40_encode R120 step by step. -/

namespace Sys2Proof.Machine

/-- The most groups a 64-bit working copy has: `ceil(64/7)` (assumption log 22). -/
def shiftFuel : Nat := 10

/-- The shift loop of R92: shift right by 7 until the working copy is zero, counting (at least once). -/
def neededLoop : Nat → DWord → Nat
  | 0, _ => 0
  | fuel + 1, t => if t >>> Config.groupBits = 0#64 then 1 else neededLoop fuel (t >>> Config.groupBits) + 1

/-- `needed(V)` (R92, R123). -/
def needed (v : DWord) : Nat := neededLoop shiftFuel v

/-- A wire byte `{cont, chunk}` (R90, R125). -/
def wireByte (cont : Bool) (chunk : BitVec 7) : Byte := BitVec.ofBool cont ++ chunk

/-- The emission loop for the `k` groups left of the working copy `t`: the continuation bit is set when the remaining
value after the shift is not zero (R125). -/
def emit : Nat → DWord → List Byte
  | 0, _ => []
  | k + 1, t =>
    wireByte (t >>> Config.groupBits != 0#64) (t.extractLsb' 0 7) :: emit k (t >>> Config.groupBits)

/-- `ENCODE(W, VALUE, C)` (R120), the steps in the order of R121: range check (R122), length (R123), budget check then
capacity check (R124), emission (R125), success (R126). -/
def encodeOp (W : Nat) (value : DWord) (C : Word) : OpEnd :=
  let V := operandValue W value
  if W > Config.maxBits ∧ V.toNat ≥ 2 ^ Config.maxBits then .raised .overflow
  else if needed V > budget W then .raised .overflow
  else if C.toNat < needed V then .raised .bufferTooSmall
  else .encoded (emit (needed V) V)

/-- The CMD write ENCODE (R160, R161). -/
def execEncode (w : Width) (s : State) : Host.Outcome State Fault Refusal :=
  whenIdle s (s.accept .encode w)

end Sys2Proof.Machine
end

