-- ==== Sys2Proof/Machine/Complete.lean ====
section
/-! DEFINITION. The block's one step, completing the accepted command (42_command R162), and when it comes
(70_reset R231). -/

namespace Sys2Proof.Machine

/-- The operation of a snapshot "as one function" (R162). -/
def runSnapshot (S : Snapshot) : OpEnd :=
  match S.op with
  | .encode => encodeOp S.w.bits S.v S.c
  | .decode => decodeOp S.w.bits S.inp S.l

/-- The reset input comes next: it "takes precedence over any host access or completion that would coincide with it"
(R210; assumption log 11). -/
def State.resetNext (s : State) : Bool := s.bus.head? == some .reset

/-- The completion comes now: no host step is left before it, or the host has none to make (R231; assumption log 2). -/
def State.blockMovesNext (s : State) : Bool := !s.resetNext && (s.hold == 0 || s.bus.isEmpty)

/-- The snapshot to complete in this step: "enabled exactly when STATUS.BUSY = 1" (R162). A busy block without a
snapshot does not exist (R44; assumption log 12). -/
def State.dueSnapshot (s : State) : Option Snapshot :=
  if s.busy && s.blockMovesNext then s.snap else none

/-- The completion step (R162). -/
def State.complete (s : State) (S : Snapshot) : State := s.finish (runSnapshot S)

end Sys2Proof.Machine
end

