-- ==== Sys2Proof/Machine/Illegal.lean ====
section
/-! DEFINITION. The illegal commands, OP = 00 and OP = 11 (42_command R164, 60_exceptions R181). -/

namespace Sys2Proof.Machine

/-- The CMD write with OP = 00 (R164, R161). -/
def execIllegalOp0 (s : State) : Host.Outcome State Fault Refusal := whenIdle s s.illegal

/-- The CMD write with OP = 11 (R164, R161). -/
def execIllegalOp3 (s : State) : Host.Outcome State Fault Refusal := whenIdle s s.illegal

end Sys2Proof.Machine
end

