-- ==== Sys2Proof/Machine/Dispatch.lean ====
section
/-! DEFINITION. One arm per constructor of Instr: what a CMD write of that command does. -/

namespace Sys2Proof.Machine

def exec (i : Instr) (s : State) : Host.Outcome State Fault Refusal :=
  match i with
  | .encode w => Sys2Proof.Machine.execEncode w s
  | .decode w => Sys2Proof.Machine.execDecode w s
  | .illegalOp0 => Sys2Proof.Machine.execIllegalOp0 s
  | .illegalOp3 => Sys2Proof.Machine.execIllegalOp3 s

end Sys2Proof.Machine
end

