-- ==== Sys2Proof/Machine/Bus.lean ====
section
/-! DEFINITION. The host's turn: one access of the window, one poll of WAIT, or the reset input (20_memory R62, R63,
R72; 30_encoding R108; 70_reset R210). -/

namespace Sys2Proof.Machine

/-- A defined write of a register: CMD issues a command, every other register stores or ignores (R63). -/
def busWrite (r : Reg) (v : Word) (s : State) : Host.Outcome State Fault Refusal :=
  match r with
  | .cmd => exec (decodeWord v) s
  | r => .next (s.storeReg v r)

/-- One poll of WAIT: a read of STATUS, and WAIT again while its bit 0 is 1 (R108; assumption log 8). -/
def State.poll (s : State) : State :=
  if s.busy then { s.busRead .status with bus := .wait :: s.bus } else s.busRead .status

/-- What one event from outside does. -/
def hostEvent (e : BusEvent) (s : State) : Host.Outcome State Fault Refusal :=
  match e with
  | .read off n => if definedAccess off n then .next (s.busRead (regAt off)) else .refused .undefinedAccess
  | .write off n v => if definedAccess off n then busWrite (regAt off) v s else .refused .undefinedAccess
  | .wait => .next s.poll
  | .reset => .next s.blockReset

/-- The event taken out of the queue; one host step fewer is left before the completion (R231; assumption log 2). -/
def State.afterEvent (s : State) (rest : List BusEvent) : State := { s with bus := rest, hold := s.hold - 1 }

/-- The host's turn. With nothing from outside and no command in flight the block "takes no step and holds its
registers" (R197; assumption log 7). -/
def hostTurn (s : State) : Host.Outcome State Fault Refusal :=
  match s.bus with
  | [] => .next s
  | e :: rest => hostEvent e (s.afterEvent rest)

/-- The command word of an opcode-table row of `nbits` bits whose bits are `w`, the bits above them 0. -/
def fetchWord (nbits w : Nat) : Word := BitVec.ofNat 32 (w % 2 ^ nbits)

end Sys2Proof.Machine
end

