-- ==== Sys2Proof/Machine/Step.lean ====
section
/-! DEFINITION. One step: the block's completion where it is due, else the host's turn (00_scope R17, 20_memory R72,
60_exceptions R188). -/

namespace Sys2Proof.Machine

/-- One step of the machine. -/
def step (s : State) : Host.Outcome State Fault Refusal :=
  match s.dueSnapshot with
  | some S => .next (s.complete S)
  | none => hostTurn s

/-- `s` with the CMD write of this word as the very next thing to happen: the write is first in the queue, and one more
host step is left before any completion. There is no fetch (R76); a command is a CMD write (assumption log 9). -/
def State.withFetchWord (s : State) (nbits w : Nat) : State :=
  { s with bus := .write Reg.cmd.offset 4 (fetchWord nbits w) :: s.bus, hold := s.hold + 1 }

end Sys2Proof.Machine
end

