-- ==== Sys2Proof/Safety.lean ====
section
/-! DEFINITION. What counts as a safe run, in the terms the statements use: the wire format in closed form (30_encoding
R91, R92, R95), the accesses a host may make (20_memory R62), and the invariant of the block (10_state R28 to R34, R44). -/

namespace Sys2Proof.Machine

/-! ## The wire format, in closed form -/

/-- `bit_length(v)`: "the number of bits in the binary form of v without leading zeros, with `bit_length(0) = 0`" (R12). -/
def bitLength (v : Nat) : Nat := if v = 0 then 0 else v.log2 + 1

/-- `ceil(max(1, bit_length(V)) / 7)`, the length of a valid wire encoding (R92). -/
def frameLength (v : Nat) : Nat := (max 1 (bitLength v) + 6) / 7

/-- Group `k` of a value: `(V >> 7k) & 0x7F` (R91). -/
def groupAt (v k : Nat) : Nat := v / 2 ^ (7 * k) % 128

/-- Byte `k` of the frame of `v`: `{cont_k, group_k(V)}` with `cont_k = 1` if k < n - 1 (R95). -/
def frameByte (v k : Nat) : Byte :=
  BitVec.ofNat 8 ((if k + 1 < frameLength v then 128 else 0) + groupAt v k)

/-- The frame of `v` (R95). -/
def frameOf (v : Nat) : List Byte := (List.range (frameLength v)).map (frameByte v)

/-- OUT_BUF holding the frame of `v`, UNSPEC beyond it (R32). -/
def outBufOf (v : Nat) : Vector (Option Byte) 9 :=
  Vector.ofFn fun k => if k.val < frameLength v then some (frameByte v k.val) else none

/-- The value ENCODE at width `w` takes from VALUE_IN: its low W bits (R105, R132). -/
def State.encodeValue (s : State) (w : Width) : Nat := s.valueIn.toNat % 2 ^ w.bits

/-! ## Accesses -/

/-- The event is a reset, a wait, or an access that R62 defines. -/
def BusEvent.allowed : BusEvent → Bool
  | .read off n => definedAccess off n
  | .write off n _ => definedAccess off n
  | .wait => true
  | .reset => true

/-- Every event waiting is allowed: a run in which the host keeps R62. -/
def State.busAllowed (s : State) : Bool := s.bus.all BusEvent.allowed

/-- The event is a CMD write (R24). -/
def BusEvent.isCmdWrite : BusEvent → Bool
  | .write off n _ => definedAccess off n && regAt off == .cmd
  | _ => false

/-! ## Where a completion comes -/

/-- A point of a run where the completion of the command in flight comes next, `q` waiting on the bus and `h` host
steps to go before it: no reset comes first (R210), and no host step is left or none is waiting (R231; assumption
log 2). -/
def CompletesNow (q : List BusEvent) (h : Nat) : Prop := q.head? ≠ some .reset ∧ (h = 0 ∨ q = [])

/-! ## The invariant -/

/-- Every result register is UNSPEC. -/
def State.ResultsUnspec (s : State) : Prop :=
  s.outBuf = unspecBuf ∧ s.outLen = none ∧ s.valueOut = none

/-- The result registers as an ENCODE that ended Ok leaves them (R32, R33, R34, R163). -/
def State.EncodeResults (s : State) : Prop :=
  ∃ v, v < 2 ^ 63 ∧ s.outBuf = outBufOf v ∧ s.outLen = some (BitVec.ofNat 4 (frameLength v)) ∧ s.valueOut = none

/-- The result registers as a DECODE that ended Ok leaves them (R32, R33, R34, R163). -/
def State.DecodeResults (s : State) : Prop :=
  ∃ v : DWord, v.toNat < 2 ^ 63 ∧ s.outBuf = unspecBuf ∧
    s.outLen = some (BitVec.ofNat 4 (frameLength v.toNat)) ∧ s.valueOut = some v

/-- What holds of the block at every point of a run. -/
structure State.Inv (s : State) : Prop where
  /-- "snap : present exactly when busy = 1" (R44). -/
  snap_iff_busy : s.snap.isSome = s.busy
  /-- "BUSY = 1 and DONE = 1 never hold together" (R28). -/
  not_busy_and_done : ¬ (s.busy = true ∧ s.done = true)
  /-- Idle since reset: "RESULT reads 0" (R29). -/
  result_ok_since_reset : s.busy = false → s.done = false → s.result = .ok
  /-- Nothing is awaited while no command is in flight (the model's own field, assumption log 2). -/
  hold_zero_when_idle : s.busy = false → s.hold = 0
  /-- While BUSY = 1 and after reset the result registers are UNSPEC (R29, R32, R33, R34). -/
  unspec_until_done : s.done = false → s.ResultsUnspec
  /-- After a command that ended with another code than Ok they are UNSPEC (R163, R164). -/
  unspec_after_failure : s.done = true → s.result ≠ .ok → s.ResultsUnspec
  /-- After a command that ended Ok they are those of an ENCODE or of a DECODE (R163). -/
  results_after_ok : s.done = true → s.result = .ok → s.EncodeResults ∨ s.DecodeResults

end Sys2Proof.Machine
end

