-- ==== Sys2Proof/Certificates/Slice0/Obligations.lean ====
section
/-! DEFINITION. The statements for the provers. The fields `bus`, `replies`, `hold` and `fresh` are the model's own
(assumption log 1 to 4). Where a statement runs a command to its end, it says so of every state
`{ t with bus := q, hold := h }` with `CompletesNow q h`: the state the command left, at any point of a run where its
completion comes, whatever is waiting on the bus. -/

open Sys2Proof Sys2Proof.Machine

/-! ## The command word -/

/-- R107, the full command table. -/
def Obligations.CommandTableDecodes : Prop :=
  decodeWord 0x00000001#32 = .encode .w8 ∧ decodeWord 0x00000011#32 = .encode .w16 ∧
  decodeWord 0x00000021#32 = .encode .w32 ∧ decodeWord 0x00000031#32 = .encode .w64 ∧
  decodeWord 0x00000002#32 = .decode .w8 ∧ decodeWord 0x00000012#32 = .decode .w16 ∧
  decodeWord 0x00000022#32 = .decode .w32 ∧ decodeWord 0x00000032#32 = .decode .w64 ∧
  decodeWord 0x00000000#32 = .illegalOp0 ∧ decodeWord 0x00000010#32 = .illegalOp0 ∧
  decodeWord 0x00000020#32 = .illegalOp0 ∧ decodeWord 0x00000030#32 = .illegalOp0 ∧
  decodeWord 0x00000003#32 = .illegalOp3 ∧ decodeWord 0x00000013#32 = .illegalOp3 ∧
  decodeWord 0x00000023#32 = .illegalOp3 ∧ decodeWord 0x00000033#32 = .illegalOp3

/-- R104 with R103: the reserved bits play no part, and every one of the 2^32 words selects ENCODE or DECODE at the
width of its WSEL bits, or an illegal command, which completes at once with IllegalCommand on an idle block. -/
def Obligations.EveryWordSelectsByOpAndWsel : Prop :=
  ∀ c : Word,
    decodeWord c = decodeWord (c &&& 0x33#32) ∧
    (c.toNat % 4 = 1 → ∃ w, decodeWord c = .encode w ∧ w.bits = 8 * 2 ^ (c.toNat / 16 % 4)) ∧
    (c.toNat % 4 = 2 → ∃ w, decodeWord c = .decode w ∧ w.bits = 8 * 2 ^ (c.toNat / 16 % 4)) ∧
    (c.toNat % 4 = 0 → decodeWord c = .illegalOp0) ∧
    (c.toNat % 4 = 3 → decodeWord c = .illegalOp3) ∧
    (c.toNat % 4 = 0 ∨ c.toNat % 4 = 3 → ∀ s : State, s.busy = false →
      ∃ t, exec (decodeWord c) s = .next t ∧ t.busy = false ∧ t.done = true ∧ t.result = .illegalCommand)

/-- Decode and encode agree, in both directions (R102, R104, R107; the order of the four bytes is the model's choice,
assumption log 14): the bytes of every instruction decode to it and to nothing else, its
word is one that software writes, and every word that software writes for ENCODE or DECODE is the encoding of what it
decodes to; any word decodes to what the encoding of its instruction decodes to. -/
def Obligations.DecodeAndEncodeAgree : Prop :=
  (∀ i : Instr, i.wellFormed = true →
    decodeBytes (encodeBytes i) = .ok i ∧ decodeWord (encode i) = i ∧ canonicalWord (encode i) = true) ∧
  (∀ c : Word, canonicalWord c = true → c.toNat % 4 = 1 ∨ c.toNat % 4 = 2 → encode (decodeWord c) = c) ∧
  (∀ c : Word, decodeWord (encode (decodeWord c)) = decodeWord c) ∧
  (∀ i j : Instr, encode i = encode j → i = j)

/-- R101: a command word has no other length than four bytes; the model's decoder over bytes (assumption log 14) rejects
every other byte string by name. -/
def Obligations.OnlyFourBytesAreACommand : Prop :=
  ∀ l : List Byte,
    (decodeBytes l = .error .truncated ↔ l.length < 4) ∧
    (decodeBytes l = .error .overlong ↔ 4 < l.length) ∧
    ((∃ i, decodeBytes l = .ok i) ↔ l.length = 4)

/-! ## One step runs the command written -/

/-- A step runs the decoded instruction: where the CMD write of a word comes next, the step is the meaning of the
instruction the decoder reads from it; and any CMD write that is first in the queue, with no completion due, runs its
instruction on the state with the write taken out of the queue. -/
def Obligations.StepRunsTheCommandWritten : Prop :=
  (∀ (s : State) (nbits w : Nat) (i : Instr), decodeTableWord nbits w = some i →
    step (s.withFetchWord nbits w) = exec i s) ∧
  (∀ (s : State) (c : Word) (rest : List BusEvent), s.bus = .write 0x00#6 4 c :: rest → s.dueSnapshot = none →
    step s = exec (decodeWord c) { s with bus := rest, hold := s.hold - 1 })

/-! ## Accepting a command -/

/-- R160: an ENCODE or DECODE written to an idle block is accepted in one atomic step that takes the snapshot, sets
BUSY, clears DONE, keeps RESULT and makes every result register UNSPEC. Nothing else changes, but for the model's own
`hold` and `fresh`. -/
def Obligations.AcceptedCommandTakesSnapshot : Prop :=
  ∀ (s : State) (c : Word), s.busy = false → c.toNat % 4 = 1 ∨ c.toNat % 4 = 2 →
    ∃ w h f, w.bits = 8 * 2 ^ (c.toNat / 16 % 4) ∧
      exec (decodeWord c) s = .next { s with
        snap := some {
          op := if c.toNat % 4 = 1 then .encode else .decode, w := w,
          v := s.valueIn, c := s.outCap, l := s.inLen, inp := s.inBuf },
        busy := true, done := false, outBuf := Vector.replicate 9 none, outLen := none, valueOut := none,
        hold := h, fresh := f }

/-- R161, R187: a CMD write while BUSY = 1 changes no state, whatever the word. -/
def Obligations.CommandWhileBusyChangesNothing : Prop :=
  ∀ (s : State) (c : Word), s.busy = true → exec (decodeWord c) s = .next s

/-- R164: a word with a reserved OP, whatever its other bits, written to an idle block completes within the write with
RESULT = 4 and STATUS = 0x42; no snapshot is taken and nothing else changes. While BUSY = 1 it is ignored. -/
def Obligations.IllegalCommandCompletesAtOnce : Prop :=
  ∀ (s : State) (c : Word), c.toNat % 4 = 0 ∨ c.toNat % 4 = 3 →
    (s.busy = false → ∃ t, t = { s with
        busy := false, done := true, result := .illegalCommand,
        outBuf := Vector.replicate 9 none, outLen := none, valueOut := none } ∧
      exec (decodeWord c) s = .next t ∧ exec .illegalOp0 s = .next t ∧ exec .illegalOp3 s = .next t ∧
      t.statusWord = 0x00000042#32) ∧
    (s.busy = true → exec (decodeWord c) s = .next s)

/-! ## ENCODE -/

/-- R92: `needed` counts by the shift loop, and equals `ceil(max(1, bit_length(V)) / 7)`. -/
def Obligations.NeededIsTheFrameLength : Prop :=
  ∀ v : DWord,
    needed v = (if v >>> 7 = 0#64 then 1 else needed (v >>> 7) + 1) ∧ needed v = frameLength v.toNat

/-- R95: for every value, the bytes the emission loop writes are the frame, byte k being `{cont_k, group_k(V)}`. -/
def Obligations.EmissionWritesTheFrame : Prop :=
  ∀ v : DWord, emit (needed v) v = frameOf v.toNat

/-- R129 with R132: the code an ENCODE on an idle block ends with, by the value it takes and OUT_CAP. -/
def Obligations.EncodeEndsWithTheCodeOfItsOperands : Prop :=
  ∀ (s : State) (w : Width), s.busy = false →
    ∃ t, exec (.encode w) s = .next t ∧ ∀ q h, CompletesNow q h →
      ∃ u, step { t with bus := q, hold := h } = .next u ∧ u.busy = false ∧ u.done = true ∧
        (u.result = .overflow ↔ w.bits > 63 ∧ s.encodeValue w ≥ 2 ^ 63) ∧
        (u.result = .overflow ↔ w = .w64 ∧ s.valueIn.getLsbD 63 = true) ∧
        (u.result = .bufferTooSmall ↔ u.result ≠ .overflow ∧ s.outCap.toNat < frameLength (s.encodeValue w)) ∧
        (u.result = .ok ↔ u.result ≠ .overflow ∧ frameLength (s.encodeValue w) ≤ s.outCap.toNat)

/-- R125, R126: ENCODE completes: the frame of VALUE_IN[W-1:0] in OUT_BUF, UNSPEC beyond it, its length in OUT_LEN,
RESULT Ok, VALUE_OUT UNSPEC, and nothing else changed, but for the model's own `hold` and `fresh`. -/
def Obligations.EncodeLeavesTheFrame : Prop :=
  ∀ (s : State) (w : Width), s.busy = false →
    ¬ (w.bits > 63 ∧ s.encodeValue w ≥ 2 ^ 63) → frameLength (s.encodeValue w) ≤ s.outCap.toNat →
    ∃ t, exec (.encode w) s = .next t ∧ ∀ q h, CompletesNow q h →
      ∃ h' f', step { t with bus := q, hold := h } = .next { s with
        busy := false, done := true, result := .ok,
        outBuf := outBufOf (s.encodeValue w), outLen := some (BitVec.ofNat 4 (frameLength (s.encodeValue w))),
        valueOut := none, snap := none, bus := q, hold := h', fresh := f' }

/-- R131: after an ENCODE that ends Overflow or BufferTooSmall every result register is UNSPEC, and nothing else but
the flags has changed, but for the model's own `hold` and `fresh`. -/
def Obligations.EncodeFailureLeavesNoOutput : Prop :=
  ∀ (s : State) (w : Width), s.busy = false →
    (w.bits > 63 ∧ s.encodeValue w ≥ 2 ^ 63) ∨ s.outCap.toNat < frameLength (s.encodeValue w) →
    ∃ t, exec (.encode w) s = .next t ∧ ∀ q h, CompletesNow q h →
      ∃ h' f', step { t with bus := q, hold := h } = .next { s with
        busy := false, done := true,
        result := if w.bits > 63 ∧ s.encodeValue w ≥ 2 ^ 63 then .overflow else .bufferTooSmall,
        outBuf := Vector.replicate 9 none, outLen := none, valueOut := none,
        snap := none, bus := q, hold := h', fresh := f' }

/-- R127, the capacity law, for every width W ≥ 1. -/
def Obligations.CapacityLaw : Prop :=
  ∀ (W : Nat) (v : DWord) (C : Word), 1 ≤ W →
    ¬ (W > 63 ∧ (operandValue W v).toNat ≥ 2 ^ 63) →
    ((∃ f, encodeOp W v C = .encoded f) ↔ needed (operandValue W v) ≤ C.toNat) ∧
    (9 ≤ C.toNat → encodeOp W v C = encodeOp W v 9#32) ∧
    (C = 0#32 → ∀ f, encodeOp W v C ≠ .encoded f)

/-- R128: after the range check the budget check never fires, for every width W ≥ 1. -/
def Obligations.BudgetCheckNeverFires : Prop :=
  ∀ (W : Nat) (v : DWord), 1 ≤ W → ¬ (W > 63 ∧ (operandValue W v).toNat ≥ 2 ^ 63) →
    needed (operandValue W v) ≤ budget W

/-- R185: Overflow comes before BufferTooSmall: a command to which both apply reports Overflow, whatever OUT_CAP is, and
BufferTooSmall is reported only after both range checks pass; ENCODE.W64 of 2^63 with OUT_CAP = 0 reports Overflow. -/
def Obligations.EncodeOverflowBeforeBufferTooSmall : Prop :=
  (∀ (W : Nat) (v : DWord) (C : Word),
    ((W > 63 ∧ (operandValue W v).toNat ≥ 2 ^ 63) ∨ needed (operandValue W v) > budget W →
      encodeOp W v C = .raised .overflow) ∧
    (encodeOp W v C = .raised .bufferTooSmall →
      ¬ (W > 63 ∧ (operandValue W v).toNat ≥ 2 ^ 63) ∧ needed (operandValue W v) ≤ budget W ∧
      C.toNat < needed (operandValue W v))) ∧
  encodeOp 64 0x8000000000000000#64 0#32 = .raised .overflow

/-- R132: VALUE_IN bits at and above W are ignored below W = 64; ENCODE.W8 of 0x1FF encodes 0xFF. -/
def Obligations.ValueBitsAboveTheWidthIgnored : Prop :=
  (∀ (W : Nat) (v v' : DWord) (C : Word), W < 64 → v.toNat % 2 ^ W = v'.toNat % 2 ^ W →
    encodeOp W v C = encodeOp W v' C) ∧
  (∀ C : Word, encodeOp 8 0x1FF#64 C = encodeOp 8 0xFF#64 C)

/-! ## DECODE -/

/-- R10, R93, R94: the constants of the four selectable widths. -/
def Obligations.WidthConstants : Prop :=
  budget Width.w8.bits = 2 ∧ budget Width.w16.bits = 3 ∧ budget Width.w32.bits = 5 ∧ budget Width.w64.bits = 9 ∧
  limitBits Width.w8.bits = 8 ∧ limitBits Width.w16.bits = 16 ∧ limitBits Width.w32.bits = 32 ∧
  limitBits Width.w64.bits = 63

/-- R93, R94: seven times any byte index within the budget is below the bit limit, for every width W ≥ 1. This is the
arithmetic that R148 rests on; ScanNeverStopsAtTheShiftLimit ties it to the scan. -/
def Obligations.BudgetIndexTimesSevenBelowBitLimit : Prop :=
  ∀ W i : Nat, 1 ≤ W → i < budget W → 7 * i < limitBits W

/-- R148: DECODE's scan starts at byte 0 with shift 0 and, at byte i with shift 7 i, goes on to byte i + 1 with shift
7 (i + 1). At every byte it reads (i < L, i < budget(W)) the shift is below the bit limit, and the scan is what it is
without the shift-limit test: the chunk-range test, then the continuation bit, then the minimality test decide. -/
def Obligations.ScanNeverStopsAtTheShiftLimit : Prop :=
  ∀ W : Nat, 1 ≤ W →
    (∀ (b : Vector Byte 9) (L : Word),
      decodeOp W b L = scan (budget W) (limitBits W) L.toNat b.toList 0 (7 * 0) 0#64) ∧
    (∀ (L i : Nat) (b : Byte) (rest : List Byte) (value : DWord), i < L → i < budget W →
      7 * i < limitBits W ∧
      scan (budget W) (limitBits W) L (b :: rest) i (7 * i) value =
        if limitBits W - 7 * i < 7 ∧ 2 ^ (limitBits W - 7 * i) ≤ b.toNat % 128 then .raised .overflow
        else if 128 ≤ b.toNat then
          scan (budget W) (limitBits W) L rest (i + 1) (7 * (i + 1))
            (value ||| BitVec.ofNat 64 (b.toNat % 128) <<< (7 * i))
        else if 0 < i ∧ b.toNat = 0 then .raised .notMinimal
        else .decoded (value ||| BitVec.ofNat 64 (b.toNat % 128) <<< (7 * i)) (i + 1))

/-- R151: what DECODE accepts, for every width W ≥ 1: exactly the canonical frames of the values below
2^limit_bits(W), within the input and the budget. -/
def Obligations.DecodeAcceptsExactlyCanonicalFrames : Prop :=
  ∀ (W : Nat) (b : Vector Byte 9) (L : Word) (v : DWord) (n : Nat), 1 ≤ W →
    (decodeOp W b L = .decoded v n ↔
      n = frameLength v.toNat ∧ (∀ k (h : k < 9), k < n → b[k] = frameByte v.toNat k) ∧
      v.toNat < 2 ^ limitBits W ∧ n ≤ min L.toNat (budget W))

/-- R146: DECODE completes: a canonical frame in IN_BUF within IN_LEN gives its value and length, RESULT Ok, OUT_BUF
UNSPEC, and nothing else changed, but for the model's own `hold` and `fresh`. -/
def Obligations.DecodeLeavesTheValue : Prop :=
  ∀ (s : State) (w : Width) (v : DWord), s.busy = false →
    v.toNat < 2 ^ limitBits w.bits → frameLength v.toNat ≤ s.inLen.toNat →
    (∀ k (h : k < 9), k < frameLength v.toNat → s.inBuf[k] = frameByte v.toNat k) →
    ∃ t, exec (.decode w) s = .next t ∧ ∀ q h, CompletesNow q h →
      ∃ h' f', step { t with bus := q, hold := h } = .next { s with
        busy := false, done := true, result := .ok,
        outBuf := Vector.replicate 9 none, outLen := some (BitVec.ofNat 4 (frameLength v.toNat)),
        valueOut := some v, snap := none, bus := q, hold := h', fresh := f' }

/-- R152: a DECODE that ends Overflow, BufferTooSmall or NotMinimal leaves every result register UNSPEC, and nothing
else but the flags has changed, but for the model's own `hold` and `fresh`; and a DECODE that does not end Ok ends with
one of these three codes. -/
def Obligations.DecodeFailureLeavesNoOutput : Prop :=
  ∀ (s : State) (w : Width), s.busy = false →
    (¬ ∃ v n, decodeOp w.bits s.inBuf s.inLen = .decoded v n) →
    ∃ t code, exec (.decode w) s = .next t ∧
      (code = .overflow ∨ code = .bufferTooSmall ∨ code = .notMinimal) ∧
      decodeOp w.bits s.inBuf s.inLen = .raised code ∧
      ∀ q h, CompletesNow q h →
        ∃ h' f', step { t with bus := q, hold := h } = .next { s with
          busy := false, done := true, result := code,
          outBuf := Vector.replicate 9 none, outLen := none, valueOut := none,
          snap := none, bus := q, hold := h', fresh := f' }

/-- R147 with R149: when every byte within the input and the budget has its continuation bit set, and the payload of
the last budget byte is in range, DECODE ends BufferTooSmall if L < budget(W), else Overflow. -/
def Obligations.DecodeExhaustedByLength : Prop :=
  ∀ (W : Nat) (b : Vector Byte 9) (L : Word), 1 ≤ W →
    (∀ k (h : k < 9), k < min L.toNat (budget W) →
      b[k].toNat ≥ 128 ∧ b[k].toNat % 128 * 2 ^ (7 * k) < 2 ^ limitBits W) →
    decodeOp W b L = .raised (if L.toNat < budget W then .bufferTooSmall else .overflow)

/-- R149, R150, R186: when the scan comes to the last budget byte and its payload has a bit at or above
`limit_bits(W) - shift`, DECODE ends Overflow, whatever the byte's continuation bit is. -/
def Obligations.DecodeOverflowAtTheLastBudgetByte : Prop :=
  ∀ (W : Nat) (b : Vector Byte 9) (L : Word) (i : Nat) (hi : i < 9), 1 ≤ W →
    i + 1 = budget W → i < L.toNat →
    (∀ k (h : k < 9), k < i → b[k].toNat ≥ 128) →
    b[i].toNat % 128 ≥ 2 ^ (limitBits W - 7 * i) →
    decodeOp W b L = .raised .overflow

/-- R145: a terminal byte 0x00 after at least one continuation byte, within the input and the budget, ends NotMinimal,
whatever the earlier payloads are; a first byte 0x00 is the valid one-byte frame of value 0. -/
def Obligations.DecodeRejectsTrailingZeroByte : Prop :=
  ∀ (W : Nat) (b : Vector Byte 9) (L : Word), 1 ≤ W →
    (∀ (i : Nat) (hi : i < 9), 0 < i → i < min L.toNat (budget W) →
      (∀ k (h : k < 9), k < i → b[k].toNat ≥ 128) → b[i] = 0x00#8 →
      decodeOp W b L = .raised .notMinimal) ∧
    (b[0] = 0x00#8 → 1 ≤ L.toNat → decodeOp W b L = .decoded 0#64 1)

/-- R153, R31, R155: DECODE depends on L only through `min(L, budget(W))`, and on no byte at or beyond it; so a
continuation byte with IN_LEN = 1 gives BufferTooSmall whatever IN_BUF[1] holds. -/
def Obligations.DecodeReadsOnlyTheOfferedBytes : Prop :=
  (∀ (W : Nat) (b b' : Vector Byte 9) (L L' : Word),
    min L.toNat (budget W) = min L'.toNat (budget W) →
    (∀ k (h : k < 9), k < min L.toNat (budget W) → b[k] = b'[k]) →
    decodeOp W b L = decodeOp W b' L') ∧
  (∀ (w : Width) (b : Vector Byte 9), b[0] = 0x80#8 → decodeOp w.bits b 1#32 = .raised .bufferTooSmall)

/-- R144, R154: the bounds of a decoded value and of the consumed count. -/
def Obligations.DecodedValueAndCountBounds : Prop :=
  ∀ (W : Nat) (b : Vector Byte 9) (L : Word) (v : DWord) (n : Nat), decodeOp W b L = .decoded v n →
    v.toNat < 2 ^ limitBits W ∧ v.toNat < 2 ^ (7 * n) ∧ 1 ≤ n ∧ n ≤ min L.toNat (budget W)

/-- R156: [0x80, 0x80] with L = 2 gives Overflow at W = 8 and BufferTooSmall at W = 16, and nine bytes with the
continuation bit set give Overflow at every width. -/
def Obligations.VerdictDependsOnTheWidth : Prop :=
  (∀ b : Vector Byte 9, b[0] = 0x80#8 → b[1] = 0x80#8 →
    decodeOp 8 b 2#32 = .raised .overflow ∧ decodeOp 16 b 2#32 = .raised .bufferTooSmall) ∧
  (∀ (W : Nat) (b : Vector Byte 9), 1 ≤ W → (∀ k (h : k < 9), b[k].toNat ≥ 128) →
    decodeOp W b 9#32 = .raised .overflow)

/-- R133: the round trip on the block. An ENCODE ends Ok with OUT_LEN = n; its frame, copied to IN_BUF of an idle block
with IN_LEN ≥ n, decodes at the same width to the value encoded and to n. -/
def Obligations.DecodeOfEncodeReturnsTheValue : Prop :=
  ∀ (w : Width) (s t u d : State) (q : List BusEvent) (h n : Nat), s.busy = false → exec (.encode w) s = .next t →
    CompletesNow q h → step { t with bus := q, hold := h } = .next u →
    u.result = .ok → u.outLen = some (BitVec.ofNat 4 n) → n ≤ 9 →
    d.busy = false → n ≤ d.inLen.toNat →
    (∀ k (h : k < 9), k < n → u.outBuf[k] = some d.inBuf[k]) →
    ∃ p, exec (.decode w) d = .next p ∧ ∀ q h, CompletesNow q h →
      ∃ r, step { p with bus := q, hold := h } = .next r ∧
        r.result = .ok ∧ r.valueOut = some (BitVec.ofNat 64 (s.encodeValue w)) ∧ r.outLen = u.outLen

/-! ## Completion and progress -/

/-- R162, R163: the completion step, where it comes (assumption log 2): the results of the operation of the snapshot
and the flags in one update, the snapshot discarded, nothing else changed, but for the model's own `hold`. -/
def Obligations.CompletionWritesTheResultTable : Prop :=
  ∀ (s : State) (S : Snapshot), s.busy = true → s.snap = some S → CompletesNow s.bus s.hold →
    runSnapshot S = (if S.op = .encode then encodeOp S.w.bits S.v S.c else decodeOp S.w.bits S.inp S.l) ∧
    (∀ f, runSnapshot S = .encoded f →
      step s = .next { s with
        outBuf := Vector.ofFn fun k => f[k.val]?, outLen := some (BitVec.ofNat 4 f.length), valueOut := none,
        result := .ok, busy := false, done := true, snap := none, hold := 0 }) ∧
    (∀ v n, runSnapshot S = .decoded v n →
      step s = .next { s with
        outBuf := Vector.replicate 9 none, outLen := some (BitVec.ofNat 4 n), valueOut := some v,
        result := .ok, busy := false, done := true, snap := none, hold := 0 }) ∧
    (∀ code, runSnapshot S = .raised code →
      step s = .next { s with
        outBuf := Vector.replicate 9 none, outLen := none, valueOut := none,
        result := code, busy := false, done := true, snap := none, hold := 0 })

/-- R166: a command's code and results are a function of its snapshot alone; of an ENCODE's, of op, W, V and C, and of
a DECODE's, of op, W, IN and L. -/
def Obligations.CompletionDependsOnTheSnapshotAlone : Prop :=
  ∀ (s s' : State) (S S' : Snapshot), s.dueSnapshot = some S → s'.dueSnapshot = some S' →
    S.op = S'.op → S.w = S'.w →
    (S.op = .encode → S.v = S'.v ∧ S.c = S'.c) → (S.op = .decode → S.inp = S'.inp ∧ S.l = S'.l) →
    ∃ t t', step s = .next t ∧ step s' = .next t' ∧
      t.result = t'.result ∧ t.outBuf = t'.outBuf ∧ t.outLen = t'.outLen ∧ t.valueOut = t'.valueOut

/-- R40: the host cannot read the snapshot: while a command is in flight, what the host's next access returns (in
`replies`, assumption log 1), and every register, is the same whatever the snapshot holds. That the UNSPEC result
registers too read the same is the model's choice, no rule: the two runs have equal `fresh`, and the draw of
assumption log 3 depends on it alone, where R222 lets such a read return any value. -/
def Obligations.HostCannotReadTheSnapshot : Prop :=
  ∀ (s t : State) (S : Snapshot), s.busy = true → s.dueSnapshot = none → s.snap.isSome = true → step s = .next t →
    ∃ t', step { s with snap := some S } = .next t' ∧ t'.replies = t.replies ∧
      ∀ d r, t'.readReg d r = t.readReg d r

/-- R165, R231: every accepted command completes: with no reset and only defined accesses waiting, within `hold + 1`
steps, with the code of its snapshot, whatever the host does meanwhile. The bound is the model's, assumption log 2. -/
def Obligations.AcceptedCommandCompletes : Prop :=
  ∀ (s : State) (S : Snapshot), s.busy = true → s.snap = some S → s.busAllowed = true → BusEvent.reset ∉ s.bus →
    ∃ k t, k ≤ s.hold + 1 ∧ core.run k s = .next t ∧ t.busy = false ∧ t.done = true ∧
      t.result = (runSnapshot S).code

/-- R184, R192: no fault ever; a step stops only at an access that R62 leaves undefined, and a host that makes none is
never stopped. -/
def Obligations.OnlyUndefinedAccessesStop : Prop :=
  (∀ (s : State) (r : Fault), step s ≠ .fault r) ∧
  (∀ (s : State) (r : Refusal), step s = .refused r → r = .undefinedAccess ∧ s.busAllowed = false) ∧
  (∀ s : State, s.busAllowed = true → ∃ t, step s = .next t ∧ t.busAllowed = true)

/-! ## The register window -/

/-- R180, R28: the numbers of the status codes, and where RESULT stands in STATUS. -/
def Obligations.StatusCodeNumbers : Prop :=
  ResultCode.ok.code = 0#3 ∧ ResultCode.overflow.code = 1#3 ∧ ResultCode.bufferTooSmall.code = 2#3 ∧
  ResultCode.notMinimal.code = 3#3 ∧ ResultCode.illegalCommand.code = 4#3 ∧
  ∀ s : State, s.statusWord.toNat / 16 = s.result.code.toNat ∧ s.statusWord.toNat % 16 / 4 = 0

/-- R67: a defined read gives the host the register's word (in `replies`, assumption log 1, UNSPEC bits drawn, assumption
log 3) and changes no state of the block. -/
def Obligations.ReadHasNoSideEffect : Prop :=
  ∀ (s : State) (r : Reg) (rest : List BusEvent), s.dueSnapshot = none → s.bus = .read r.offset 4 :: rest →
    step s = .next { s with
      bus := rest, hold := s.hold - 1, fresh := s.fresh + 1,
      replies := s.readReg (Config.draw s.fresh) r :: s.replies }

/-- R24 to R30, R35: what a read of CMD, STATUS, an operand register or the reserved offset returns, as a number. -/
def Obligations.OperandAndStatusReads : Prop :=
  ∀ (s : State) (d : Word),
    s.readReg d .cmd = 0#32 ∧ s.readReg d .reserved = 0#32 ∧
    (s.readReg d .status).toNat = s.busy.toNat + 2 * s.done.toNat + 16 * s.result.code.toNat ∧
    (s.readReg d .valueInLo).toNat = s.valueIn.toNat % 2 ^ 32 ∧
    (s.readReg d .valueInHi).toNat = s.valueIn.toNat / 2 ^ 32 ∧
    s.readReg d .outCap = s.outCap ∧ s.readReg d .inLen = s.inLen ∧
    (s.readReg d .inBuf0).toNat =
      s.inBuf[0].toNat + 2 ^ 8 * s.inBuf[1].toNat + 2 ^ 16 * s.inBuf[2].toNat + 2 ^ 24 * s.inBuf[3].toNat ∧
    (s.readReg d .inBuf1).toNat =
      s.inBuf[4].toNat + 2 ^ 8 * s.inBuf[5].toNat + 2 ^ 16 * s.inBuf[6].toNat + 2 ^ 24 * s.inBuf[7].toNat ∧
    (s.readReg d .inBuf2).toNat = s.inBuf[8].toNat

/-- R32 to R34, R63: a read of a result register returns what it holds, reserved bits 0; each UNSPEC byte of OUT_BUF,
UNSPEC COUNT and UNSPEC VALUE_OUT reads as the bits of the draw `d` in its place. -/
def Obligations.ResultRegisterReads : Prop :=
  ∀ (s : State) (d : Word) (b : Fin 9 → Byte),
    (∀ k (h : k < 9), b ⟨k, h⟩ = s.outBuf[k].getD (BitVec.ofNat 8 (d.toNat / 2 ^ (8 * (k % 4))))) →
    (s.readReg d .outBuf0).toNat =
      (b 0).toNat + 2 ^ 8 * (b 1).toNat + 2 ^ 16 * (b 2).toNat + 2 ^ 24 * (b 3).toNat ∧
    (s.readReg d .outBuf1).toNat =
      (b 4).toNat + 2 ^ 8 * (b 5).toNat + 2 ^ 16 * (b 6).toNat + 2 ^ 24 * (b 7).toNat ∧
    (s.readReg d .outBuf2).toNat = (b 8).toNat ∧
    (∀ n, s.outLen = some n → (s.readReg d .outLen).toNat = n.toNat) ∧
    (s.outLen = none → (s.readReg d .outLen).toNat = d.toNat % 16) ∧
    (∀ v, s.valueOut = some v → (s.readReg d .valueOutLo).toNat = v.toNat % 2 ^ 32 ∧
      (s.readReg d .valueOutHi).toNat = v.toNat / 2 ^ 32) ∧
    (s.valueOut = none → s.readReg d .valueOutLo = d ∧ s.readReg d .valueOutHi = d)

/-- R25 to R27, R30, R63: an RW register reads back as written, less the reserved bits of IN_BUF2. -/
def Obligations.OperandReadsBackAsWritten : Prop :=
  ∀ (s : State) (v d : Word) (r : Reg), r.access = .rw →
    (s.storeReg v r).readReg d r = if r = .inBuf2 then v &&& 0xFF#32 else v

/-- R63, R167: a write of an RW register, at any time, changes that register and no other, and not the command in
flight. -/
def Obligations.OperandWriteChangesOnlyItsRegister : Prop :=
  ∀ (s : State) (v : Word) (r : Reg) (rest : List BusEvent), r.access = .rw → s.dueSnapshot = none →
    s.bus = .write r.offset 4 v :: rest →
    ∃ t, step s = .next t ∧ (∀ d, t.readReg d r = if r = .inBuf2 then v &&& 0xFF#32 else v) ∧
      (∀ d r', r' ≠ r → t.readReg d r' = s.readReg d r') ∧
      t.snap = s.snap ∧ t.busy = s.busy ∧ t.done = s.done ∧ t.result = s.result ∧
      t.outBuf = s.outBuf ∧ t.outLen = s.outLen ∧ t.valueOut = s.valueOut ∧
      t.bus = rest ∧ t.replies = s.replies

/-- R63, R28, R32 to R35: a write of an RO register or of the reserved offset changes nothing. -/
def Obligations.ReadOnlyWriteIgnored : Prop :=
  ∀ (s : State) (v : Word) (r : Reg) (rest : List BusEvent), r.access = .ro ∨ r.access = .res →
    s.dueSnapshot = none → s.bus = .write r.offset 4 v :: rest →
    step s = .next { s with bus := rest, hold := s.hold - 1 }

/-- R62 (what a model does with such an access; assumption log 5): an access of another width, or at an offset that is not a multiple of 4, is refused. -/
def Obligations.UndefinedAccessRefused : Prop :=
  ∀ (s : State) (off : BitVec 6) (n : Nat) (v : Word) (rest : List BusEvent), s.dueSnapshot = none →
    n ≠ 4 ∨ off.toNat % 4 ≠ 0 → s.bus = .read off n :: rest ∨ s.bus = .write off n v :: rest →
    step s = .refused .undefinedAccess

/-- R60, R61 (the queue of accesses is the model's, assumption log 1 and 6): the window is 64 bytes at a multiple of 64; an address in it reaches the register whose offset is
`off & 0x3C`, and an address outside it does not reach the block. -/
def Obligations.BusAddressReachesItsRegister : Prop :=
  Config.baseAddr % 64 = 0 ∧
  (∀ off : BitVec 6, (regAt off).offset = off &&& 0x3C#6) ∧
  (∀ (s : State) (a n : Nat) (v : Word), Config.baseAddr ≤ a → a ≤ Config.baseAddr + 0x3F →
    s.memRead a n = { s with bus := s.bus ++ [.read (BitVec.ofNat 6 (a - Config.baseAddr)) n] } ∧
    s.memWrite a n v = { s with bus := s.bus ++ [.write (BitVec.ofNat 6 (a - Config.baseAddr)) n v] }) ∧
  (∀ (s : State) (a n : Nat) (v : Word), a < Config.baseAddr ∨ Config.baseAddr + 0x3F < a →
    s.memRead a n = s ∧ s.memWrite a n v = s)

/-- R108 (WAIT as a queue entry is the model's, assumption log 8): a poll of WAIT reads STATUS and goes on waiting exactly while BUSY = 1. -/
def Obligations.WaitPollsStatus : Prop :=
  ∀ (s : State) (rest : List BusEvent), s.dueSnapshot = none → s.bus = .wait :: rest →
    step s = .next { s with
      bus := if s.busy then .wait :: rest else rest, hold := s.hold - 1, fresh := s.fresh + 1,
      replies := s.statusWord :: s.replies }

/-! ## Reset and whole-machine rules -/

/-- R211: the values after reset, of every row of its table; what is UNSPEC holds no value, and reserved bits read 0. -/
def Obligations.ResetValues : Prop :=
  State.reset.busy = false ∧ State.reset.done = false ∧ State.reset.result.code = 0#3 ∧
  State.reset.outBuf = Vector.replicate 9 none ∧ State.reset.outLen = none ∧ State.reset.valueOut = none ∧
  State.reset.snap = none ∧
  ∀ d, State.reset.readReg d .status = 0#32 ∧ (∀ r, r.access = .rw → State.reset.readReg d r = 0#32) ∧
    State.reset.readReg d .cmd = 0#32 ∧ State.reset.readReg d .reserved = 0#32 ∧
    (State.reset.readReg d .outBuf2).toNat < 2 ^ 8 ∧ (State.reset.readReg d .outLen).toNat < 2 ^ 4

/-- R210: reset, at any time, while busy too and before a due completion, sets every register and field to its reset
value and discards the snapshot; what is outside the block stays (`bus`, `replies`, `fresh`, assumption log 1 and 4).
-/
def Obligations.ResetWinsAndClearsTheBlock : Prop :=
  ∀ (s : State) (rest : List BusEvent), s.bus = .reset :: rest →
    step s = .next { State.reset with bus := rest, replies := s.replies, fresh := s.fresh }

/-- R213: a command issued straight after reset ends BufferTooSmall, for ENCODE and DECODE at every width, and a zero
word ends IllegalCommand. -/
def Obligations.CommandsStraightAfterReset : Prop :=
  (∀ w, ∃ t, exec (.encode w) State.reset = .next t ∧ ∀ q h, CompletesNow q h →
    ∃ u, step { t with bus := q, hold := h } = .next u ∧ u.done = true ∧ u.result = .bufferTooSmall) ∧
  (∀ w, ∃ t, exec (.decode w) State.reset = .next t ∧ ∀ q h, CompletesNow q h →
    ∃ u, step { t with bus := q, hold := h } = .next u ∧ u.done = true ∧ u.result = .bufferTooSmall) ∧
  (∃ t, exec (decodeWord 0#32) State.reset = .next t ∧ t.done = true ∧ t.result = .illegalCommand)

/-- R168: only a CMD write of ENCODE or DECODE on an idle block sets BUSY, and only a CMD write on an idle block, a
completion or a reset changes DONE or RESULT. -/
def Obligations.OnlyCommandsSetTheFlags : Prop :=
  ∀ s t : State, step s = .next t →
    (s.busy = false → t.busy = true →
      ∃ off c rest, s.bus = .write off 4 c :: rest ∧ regAt off = .cmd ∧ (c.toNat % 4 = 1 ∨ c.toNat % 4 = 2)) ∧
    (t.done ≠ s.done ∨ t.result ≠ s.result →
      (∃ S, s.dueSnapshot = some S) ∨ s.bus.head? = some .reset ∨
      (s.busy = false ∧ ∃ e rest, s.bus = e :: rest ∧ e.isCmdWrite = true))

/-- R189, R73: the results of the last command stay until the next CMD write or a reset. -/
def Obligations.ResultsStayUntilTheNextCommand : Prop :=
  ∀ s t : State, s.busy = false → step s = .next t →
    (∀ e rest, s.bus = e :: rest → e.isCmdWrite = false ∧ e ≠ .reset) →
    t.busy = false ∧ t.done = s.done ∧ t.result = s.result ∧
    t.outBuf = s.outBuf ∧ t.outLen = s.outLen ∧ t.valueOut = s.valueOut

/-- R197, R17: an idle block with nothing coming from outside takes no step and holds its registers (that the model then
answers the same state is its choice, assumption log 7). -/
def Obligations.IdleBlockHoldsItsRegisters : Prop :=
  ∀ s : State, s.busy = false → s.bus = [] → step s = .next s

/-- The invariant holds after reset. -/
def Obligations.ResetMeetsTheInvariant : Prop := State.reset.Inv

/-- Every step keeps the invariant: the snapshot is present exactly while busy, BUSY and DONE never hold together, and
the result registers hold defined values exactly as R163 lists them, an ENCODE's being the canonical frame of a value
below 2^63. (`hold` is the model's own, assumption log 2.) -/
def Obligations.StepKeepsTheInvariant : Prop :=
  ∀ s t : State, s.Inv → step s = .next t → t.Inv
end

