-- ==== Sys2Proof/Laws/State.lean ====
section
/-! SUPPORT. One lemma per field for each named update of State, true by rfl, so that no proof unfolds a record update.
`finish` and `storeReg` depend on their argument: their lemmas say what every case leaves unchanged. -/

namespace Sys2Proof.Machine.State

/-! ### `flagsAccepted` -/

@[simp] theorem flagsAccepted_valueIn (s : State) : s.flagsAccepted.valueIn = s.valueIn := rfl
@[simp] theorem flagsAccepted_outCap (s : State) : s.flagsAccepted.outCap = s.outCap := rfl
@[simp] theorem flagsAccepted_inLen (s : State) : s.flagsAccepted.inLen = s.inLen := rfl
@[simp] theorem flagsAccepted_inBuf (s : State) : s.flagsAccepted.inBuf = s.inBuf := rfl
@[simp] theorem flagsAccepted_busy (s : State) : s.flagsAccepted.busy = true := rfl
@[simp] theorem flagsAccepted_done (s : State) : s.flagsAccepted.done = false := rfl
@[simp] theorem flagsAccepted_result (s : State) : s.flagsAccepted.result = s.result := rfl
@[simp] theorem flagsAccepted_outBuf (s : State) : s.flagsAccepted.outBuf = s.outBuf := rfl
@[simp] theorem flagsAccepted_outLen (s : State) : s.flagsAccepted.outLen = s.outLen := rfl
@[simp] theorem flagsAccepted_valueOut (s : State) : s.flagsAccepted.valueOut = s.valueOut := rfl
@[simp] theorem flagsAccepted_snap (s : State) : s.flagsAccepted.snap = s.snap := rfl
@[simp] theorem flagsAccepted_bus (s : State) : s.flagsAccepted.bus = s.bus := rfl
@[simp] theorem flagsAccepted_replies (s : State) : s.flagsAccepted.replies = s.replies := rfl
@[simp] theorem flagsAccepted_hold (s : State) : s.flagsAccepted.hold = s.hold := rfl
@[simp] theorem flagsAccepted_fresh (s : State) : s.flagsAccepted.fresh = s.fresh := rfl

/-! ### `flagsCompleted` -/

@[simp] theorem flagsCompleted_valueIn (s : State) (c : ResultCode) : (s.flagsCompleted c).valueIn = s.valueIn := rfl
@[simp] theorem flagsCompleted_outCap (s : State) (c : ResultCode) : (s.flagsCompleted c).outCap = s.outCap := rfl
@[simp] theorem flagsCompleted_inLen (s : State) (c : ResultCode) : (s.flagsCompleted c).inLen = s.inLen := rfl
@[simp] theorem flagsCompleted_inBuf (s : State) (c : ResultCode) : (s.flagsCompleted c).inBuf = s.inBuf := rfl
@[simp] theorem flagsCompleted_busy (s : State) (c : ResultCode) : (s.flagsCompleted c).busy = false := rfl
@[simp] theorem flagsCompleted_done (s : State) (c : ResultCode) : (s.flagsCompleted c).done = true := rfl
@[simp] theorem flagsCompleted_result (s : State) (c : ResultCode) : (s.flagsCompleted c).result = c := rfl
@[simp] theorem flagsCompleted_outBuf (s : State) (c : ResultCode) : (s.flagsCompleted c).outBuf = s.outBuf := rfl
@[simp] theorem flagsCompleted_outLen (s : State) (c : ResultCode) : (s.flagsCompleted c).outLen = s.outLen := rfl
@[simp] theorem flagsCompleted_valueOut (s : State) (c : ResultCode) : (s.flagsCompleted c).valueOut = s.valueOut := rfl
@[simp] theorem flagsCompleted_snap (s : State) (c : ResultCode) : (s.flagsCompleted c).snap = s.snap := rfl
@[simp] theorem flagsCompleted_bus (s : State) (c : ResultCode) : (s.flagsCompleted c).bus = s.bus := rfl
@[simp] theorem flagsCompleted_replies (s : State) (c : ResultCode) : (s.flagsCompleted c).replies = s.replies := rfl
@[simp] theorem flagsCompleted_hold (s : State) (c : ResultCode) : (s.flagsCompleted c).hold = s.hold := rfl
@[simp] theorem flagsCompleted_fresh (s : State) (c : ResultCode) : (s.flagsCompleted c).fresh = s.fresh := rfl

/-! ### `clearResults` -/

@[simp] theorem clearResults_valueIn (s : State) : s.clearResults.valueIn = s.valueIn := rfl
@[simp] theorem clearResults_outCap (s : State) : s.clearResults.outCap = s.outCap := rfl
@[simp] theorem clearResults_inLen (s : State) : s.clearResults.inLen = s.inLen := rfl
@[simp] theorem clearResults_inBuf (s : State) : s.clearResults.inBuf = s.inBuf := rfl
@[simp] theorem clearResults_busy (s : State) : s.clearResults.busy = s.busy := rfl
@[simp] theorem clearResults_done (s : State) : s.clearResults.done = s.done := rfl
@[simp] theorem clearResults_result (s : State) : s.clearResults.result = s.result := rfl
@[simp] theorem clearResults_outBuf (s : State) : s.clearResults.outBuf = unspecBuf := rfl
@[simp] theorem clearResults_outLen (s : State) : s.clearResults.outLen = none := rfl
@[simp] theorem clearResults_valueOut (s : State) : s.clearResults.valueOut = none := rfl
@[simp] theorem clearResults_snap (s : State) : s.clearResults.snap = s.snap := rfl
@[simp] theorem clearResults_bus (s : State) : s.clearResults.bus = s.bus := rfl
@[simp] theorem clearResults_replies (s : State) : s.clearResults.replies = s.replies := rfl
@[simp] theorem clearResults_hold (s : State) : s.clearResults.hold = s.hold := rfl
@[simp] theorem clearResults_fresh (s : State) : s.clearResults.fresh = s.fresh := rfl

/-! ### `accept` -/

@[simp] theorem accept_valueIn (s : State) (op : Op) (w : Width) : (s.accept op w).valueIn = s.valueIn := rfl
@[simp] theorem accept_outCap (s : State) (op : Op) (w : Width) : (s.accept op w).outCap = s.outCap := rfl
@[simp] theorem accept_inLen (s : State) (op : Op) (w : Width) : (s.accept op w).inLen = s.inLen := rfl
@[simp] theorem accept_inBuf (s : State) (op : Op) (w : Width) : (s.accept op w).inBuf = s.inBuf := rfl
@[simp] theorem accept_busy (s : State) (op : Op) (w : Width) : (s.accept op w).busy = true := rfl
@[simp] theorem accept_done (s : State) (op : Op) (w : Width) : (s.accept op w).done = false := rfl
@[simp] theorem accept_result (s : State) (op : Op) (w : Width) : (s.accept op w).result = s.result := rfl
@[simp] theorem accept_outBuf (s : State) (op : Op) (w : Width) : (s.accept op w).outBuf = unspecBuf := rfl
@[simp] theorem accept_outLen (s : State) (op : Op) (w : Width) : (s.accept op w).outLen = none := rfl
@[simp] theorem accept_valueOut (s : State) (op : Op) (w : Width) : (s.accept op w).valueOut = none := rfl
@[simp] theorem accept_snap (s : State) (op : Op) (w : Width) : (s.accept op w).snap = some (s.snapshot op w) := rfl
@[simp] theorem accept_bus (s : State) (op : Op) (w : Width) : (s.accept op w).bus = s.bus := rfl
@[simp] theorem accept_replies (s : State) (op : Op) (w : Width) : (s.accept op w).replies = s.replies := rfl
@[simp] theorem accept_hold (s : State) (op : Op) (w : Width) : (s.accept op w).hold = Config.latency s.fresh := rfl
@[simp] theorem accept_fresh (s : State) (op : Op) (w : Width) : (s.accept op w).fresh = s.fresh + 1 := rfl

/-! ### `illegal` -/

@[simp] theorem illegal_valueIn (s : State) : s.illegal.valueIn = s.valueIn := rfl
@[simp] theorem illegal_outCap (s : State) : s.illegal.outCap = s.outCap := rfl
@[simp] theorem illegal_inLen (s : State) : s.illegal.inLen = s.inLen := rfl
@[simp] theorem illegal_inBuf (s : State) : s.illegal.inBuf = s.inBuf := rfl
@[simp] theorem illegal_busy (s : State) : s.illegal.busy = false := rfl
@[simp] theorem illegal_done (s : State) : s.illegal.done = true := rfl
@[simp] theorem illegal_result (s : State) : s.illegal.result = .illegalCommand := rfl
@[simp] theorem illegal_outBuf (s : State) : s.illegal.outBuf = unspecBuf := rfl
@[simp] theorem illegal_outLen (s : State) : s.illegal.outLen = none := rfl
@[simp] theorem illegal_valueOut (s : State) : s.illegal.valueOut = none := rfl
@[simp] theorem illegal_snap (s : State) : s.illegal.snap = s.snap := rfl
@[simp] theorem illegal_bus (s : State) : s.illegal.bus = s.bus := rfl
@[simp] theorem illegal_replies (s : State) : s.illegal.replies = s.replies := rfl
@[simp] theorem illegal_hold (s : State) : s.illegal.hold = s.hold := rfl
@[simp] theorem illegal_fresh (s : State) : s.illegal.fresh = s.fresh := rfl

/-! ### `blockReset` -/

@[simp] theorem blockReset_valueIn (s : State) : s.blockReset.valueIn = 0#64 := rfl
@[simp] theorem blockReset_outCap (s : State) : s.blockReset.outCap = 0#32 := rfl
@[simp] theorem blockReset_inLen (s : State) : s.blockReset.inLen = 0#32 := rfl
@[simp] theorem blockReset_inBuf (s : State) : s.blockReset.inBuf = Vector.replicate 9 0#8 := rfl
@[simp] theorem blockReset_busy (s : State) : s.blockReset.busy = false := rfl
@[simp] theorem blockReset_done (s : State) : s.blockReset.done = false := rfl
@[simp] theorem blockReset_result (s : State) : s.blockReset.result = .ok := rfl
@[simp] theorem blockReset_outBuf (s : State) : s.blockReset.outBuf = unspecBuf := rfl
@[simp] theorem blockReset_outLen (s : State) : s.blockReset.outLen = none := rfl
@[simp] theorem blockReset_valueOut (s : State) : s.blockReset.valueOut = none := rfl
@[simp] theorem blockReset_snap (s : State) : s.blockReset.snap = none := rfl
@[simp] theorem blockReset_bus (s : State) : s.blockReset.bus = s.bus := rfl
@[simp] theorem blockReset_replies (s : State) : s.blockReset.replies = s.replies := rfl
@[simp] theorem blockReset_hold (s : State) : s.blockReset.hold = 0 := rfl
@[simp] theorem blockReset_fresh (s : State) : s.blockReset.fresh = s.fresh := rfl

/-! ### `busRead` -/

@[simp] theorem busRead_valueIn (s : State) (r : Reg) : (s.busRead r).valueIn = s.valueIn := rfl
@[simp] theorem busRead_outCap (s : State) (r : Reg) : (s.busRead r).outCap = s.outCap := rfl
@[simp] theorem busRead_inLen (s : State) (r : Reg) : (s.busRead r).inLen = s.inLen := rfl
@[simp] theorem busRead_inBuf (s : State) (r : Reg) : (s.busRead r).inBuf = s.inBuf := rfl
@[simp] theorem busRead_busy (s : State) (r : Reg) : (s.busRead r).busy = s.busy := rfl
@[simp] theorem busRead_done (s : State) (r : Reg) : (s.busRead r).done = s.done := rfl
@[simp] theorem busRead_result (s : State) (r : Reg) : (s.busRead r).result = s.result := rfl
@[simp] theorem busRead_outBuf (s : State) (r : Reg) : (s.busRead r).outBuf = s.outBuf := rfl
@[simp] theorem busRead_outLen (s : State) (r : Reg) : (s.busRead r).outLen = s.outLen := rfl
@[simp] theorem busRead_valueOut (s : State) (r : Reg) : (s.busRead r).valueOut = s.valueOut := rfl
@[simp] theorem busRead_snap (s : State) (r : Reg) : (s.busRead r).snap = s.snap := rfl
@[simp] theorem busRead_bus (s : State) (r : Reg) : (s.busRead r).bus = s.bus := rfl
@[simp] theorem busRead_replies (s : State) (r : Reg) : (s.busRead r).replies = s.readReg (Config.draw s.fresh) r :: s.replies := rfl
@[simp] theorem busRead_hold (s : State) (r : Reg) : (s.busRead r).hold = s.hold := rfl
@[simp] theorem busRead_fresh (s : State) (r : Reg) : (s.busRead r).fresh = s.fresh + 1 := rfl

/-! ### `afterEvent` -/

@[simp] theorem afterEvent_valueIn (s : State) (l : List BusEvent) : (s.afterEvent l).valueIn = s.valueIn := rfl
@[simp] theorem afterEvent_outCap (s : State) (l : List BusEvent) : (s.afterEvent l).outCap = s.outCap := rfl
@[simp] theorem afterEvent_inLen (s : State) (l : List BusEvent) : (s.afterEvent l).inLen = s.inLen := rfl
@[simp] theorem afterEvent_inBuf (s : State) (l : List BusEvent) : (s.afterEvent l).inBuf = s.inBuf := rfl
@[simp] theorem afterEvent_busy (s : State) (l : List BusEvent) : (s.afterEvent l).busy = s.busy := rfl
@[simp] theorem afterEvent_done (s : State) (l : List BusEvent) : (s.afterEvent l).done = s.done := rfl
@[simp] theorem afterEvent_result (s : State) (l : List BusEvent) : (s.afterEvent l).result = s.result := rfl
@[simp] theorem afterEvent_outBuf (s : State) (l : List BusEvent) : (s.afterEvent l).outBuf = s.outBuf := rfl
@[simp] theorem afterEvent_outLen (s : State) (l : List BusEvent) : (s.afterEvent l).outLen = s.outLen := rfl
@[simp] theorem afterEvent_valueOut (s : State) (l : List BusEvent) : (s.afterEvent l).valueOut = s.valueOut := rfl
@[simp] theorem afterEvent_snap (s : State) (l : List BusEvent) : (s.afterEvent l).snap = s.snap := rfl
@[simp] theorem afterEvent_bus (s : State) (l : List BusEvent) : (s.afterEvent l).bus = l := rfl
@[simp] theorem afterEvent_replies (s : State) (l : List BusEvent) : (s.afterEvent l).replies = s.replies := rfl
@[simp] theorem afterEvent_hold (s : State) (l : List BusEvent) : (s.afterEvent l).hold = s.hold - 1 := rfl
@[simp] theorem afterEvent_fresh (s : State) (l : List BusEvent) : (s.afterEvent l).fresh = s.fresh := rfl

/-! ### `withFetchWord` -/

@[simp] theorem withFetchWord_valueIn (s : State) (n w : Nat) : (s.withFetchWord n w).valueIn = s.valueIn := rfl
@[simp] theorem withFetchWord_outCap (s : State) (n w : Nat) : (s.withFetchWord n w).outCap = s.outCap := rfl
@[simp] theorem withFetchWord_inLen (s : State) (n w : Nat) : (s.withFetchWord n w).inLen = s.inLen := rfl
@[simp] theorem withFetchWord_inBuf (s : State) (n w : Nat) : (s.withFetchWord n w).inBuf = s.inBuf := rfl
@[simp] theorem withFetchWord_busy (s : State) (n w : Nat) : (s.withFetchWord n w).busy = s.busy := rfl
@[simp] theorem withFetchWord_done (s : State) (n w : Nat) : (s.withFetchWord n w).done = s.done := rfl
@[simp] theorem withFetchWord_result (s : State) (n w : Nat) : (s.withFetchWord n w).result = s.result := rfl
@[simp] theorem withFetchWord_outBuf (s : State) (n w : Nat) : (s.withFetchWord n w).outBuf = s.outBuf := rfl
@[simp] theorem withFetchWord_outLen (s : State) (n w : Nat) : (s.withFetchWord n w).outLen = s.outLen := rfl
@[simp] theorem withFetchWord_valueOut (s : State) (n w : Nat) : (s.withFetchWord n w).valueOut = s.valueOut := rfl
@[simp] theorem withFetchWord_snap (s : State) (n w : Nat) : (s.withFetchWord n w).snap = s.snap := rfl
@[simp] theorem withFetchWord_bus (s : State) (n w : Nat) : (s.withFetchWord n w).bus = .write 0x00#6 4 (fetchWord n w) :: s.bus := rfl
@[simp] theorem withFetchWord_replies (s : State) (n w : Nat) : (s.withFetchWord n w).replies = s.replies := rfl
@[simp] theorem withFetchWord_hold (s : State) (n w : Nat) : (s.withFetchWord n w).hold = s.hold + 1 := rfl
@[simp] theorem withFetchWord_fresh (s : State) (n w : Nat) : (s.withFetchWord n w).fresh = s.fresh := rfl

/-! ### `finish` -/

@[simp] theorem finish_valueIn (s : State) (e : OpEnd) : (s.finish e).valueIn = s.valueIn := by
  cases e <;> rfl
@[simp] theorem finish_outCap (s : State) (e : OpEnd) : (s.finish e).outCap = s.outCap := by
  cases e <;> rfl
@[simp] theorem finish_inLen (s : State) (e : OpEnd) : (s.finish e).inLen = s.inLen := by
  cases e <;> rfl
@[simp] theorem finish_inBuf (s : State) (e : OpEnd) : (s.finish e).inBuf = s.inBuf := by
  cases e <;> rfl
@[simp] theorem finish_busy (s : State) (e : OpEnd) : (s.finish e).busy = false := by
  cases e <;> rfl
@[simp] theorem finish_done (s : State) (e : OpEnd) : (s.finish e).done = true := by
  cases e <;> rfl
@[simp] theorem finish_result (s : State) (e : OpEnd) : (s.finish e).result = e.code := by
  cases e <;> rfl
@[simp] theorem finish_snap (s : State) (e : OpEnd) : (s.finish e).snap = none := by
  cases e <;> rfl
@[simp] theorem finish_bus (s : State) (e : OpEnd) : (s.finish e).bus = s.bus := by
  cases e <;> rfl
@[simp] theorem finish_replies (s : State) (e : OpEnd) : (s.finish e).replies = s.replies := by
  cases e <;> rfl
@[simp] theorem finish_hold (s : State) (e : OpEnd) : (s.finish e).hold = 0 := by
  cases e <;> rfl
@[simp] theorem finish_fresh (s : State) (e : OpEnd) : (s.finish e).fresh = s.fresh := by
  cases e <;> rfl

@[simp] theorem finish_encoded_outBuf (s : State) (f : List Byte) : (s.finish (.encoded f)).outBuf = frameBuf f := rfl
@[simp] theorem finish_encoded_outLen (s : State) (f : List Byte) :
    (s.finish (.encoded f)).outLen = some (BitVec.ofNat 4 f.length) := rfl
@[simp] theorem finish_encoded_valueOut (s : State) (f : List Byte) : (s.finish (.encoded f)).valueOut = none := rfl
@[simp] theorem finish_decoded_outBuf (s : State) (v : DWord) (n : Nat) :
    (s.finish (.decoded v n)).outBuf = unspecBuf := rfl
@[simp] theorem finish_decoded_outLen (s : State) (v : DWord) (n : Nat) :
    (s.finish (.decoded v n)).outLen = some (BitVec.ofNat 4 n) := rfl
@[simp] theorem finish_decoded_valueOut (s : State) (v : DWord) (n : Nat) :
    (s.finish (.decoded v n)).valueOut = some v := rfl
@[simp] theorem finish_raised_outBuf (s : State) (c : ResultCode) : (s.finish (.raised c)).outBuf = unspecBuf := rfl
@[simp] theorem finish_raised_outLen (s : State) (c : ResultCode) : (s.finish (.raised c)).outLen = none := rfl
@[simp] theorem finish_raised_valueOut (s : State) (c : ResultCode) : (s.finish (.raised c)).valueOut = none := rfl

/-! ### `storeReg` -/

@[simp] theorem storeReg_busy (s : State) (v : Word) (r : Reg) : (s.storeReg v r).busy = s.busy := by
  cases r <;> rfl
@[simp] theorem storeReg_done (s : State) (v : Word) (r : Reg) : (s.storeReg v r).done = s.done := by
  cases r <;> rfl
@[simp] theorem storeReg_result (s : State) (v : Word) (r : Reg) : (s.storeReg v r).result = s.result := by
  cases r <;> rfl
@[simp] theorem storeReg_outBuf (s : State) (v : Word) (r : Reg) : (s.storeReg v r).outBuf = s.outBuf := by
  cases r <;> rfl
@[simp] theorem storeReg_outLen (s : State) (v : Word) (r : Reg) : (s.storeReg v r).outLen = s.outLen := by
  cases r <;> rfl
@[simp] theorem storeReg_valueOut (s : State) (v : Word) (r : Reg) : (s.storeReg v r).valueOut = s.valueOut := by
  cases r <;> rfl
@[simp] theorem storeReg_snap (s : State) (v : Word) (r : Reg) : (s.storeReg v r).snap = s.snap := by
  cases r <;> rfl
@[simp] theorem storeReg_bus (s : State) (v : Word) (r : Reg) : (s.storeReg v r).bus = s.bus := by
  cases r <;> rfl
@[simp] theorem storeReg_replies (s : State) (v : Word) (r : Reg) : (s.storeReg v r).replies = s.replies := by
  cases r <;> rfl
@[simp] theorem storeReg_hold (s : State) (v : Word) (r : Reg) : (s.storeReg v r).hold = s.hold := by
  cases r <;> rfl
@[simp] theorem storeReg_fresh (s : State) (v : Word) (r : Reg) : (s.storeReg v r).fresh = s.fresh := by
  cases r <;> rfl

/-! ### `poll` -/

@[simp] theorem poll_valueIn (s : State) : s.poll.valueIn = s.valueIn := by
  unfold poll; split <;> rfl
@[simp] theorem poll_outCap (s : State) : s.poll.outCap = s.outCap := by
  unfold poll; split <;> rfl
@[simp] theorem poll_inLen (s : State) : s.poll.inLen = s.inLen := by
  unfold poll; split <;> rfl
@[simp] theorem poll_inBuf (s : State) : s.poll.inBuf = s.inBuf := by
  unfold poll; split <;> rfl
@[simp] theorem poll_busy (s : State) : s.poll.busy = s.busy := by
  unfold poll; split <;> rfl
@[simp] theorem poll_done (s : State) : s.poll.done = s.done := by
  unfold poll; split <;> rfl
@[simp] theorem poll_result (s : State) : s.poll.result = s.result := by
  unfold poll; split <;> rfl
@[simp] theorem poll_outBuf (s : State) : s.poll.outBuf = s.outBuf := by
  unfold poll; split <;> rfl
@[simp] theorem poll_outLen (s : State) : s.poll.outLen = s.outLen := by
  unfold poll; split <;> rfl
@[simp] theorem poll_valueOut (s : State) : s.poll.valueOut = s.valueOut := by
  unfold poll; split <;> rfl
@[simp] theorem poll_snap (s : State) : s.poll.snap = s.snap := by
  unfold poll; split <;> rfl
@[simp] theorem poll_hold (s : State) : s.poll.hold = s.hold := by
  unfold poll; split <;> rfl
@[simp] theorem poll_bus (s : State) : s.poll.bus = if s.busy then .wait :: s.bus else s.bus := by
  unfold poll; split <;> rfl
@[simp] theorem poll_replies (s : State) : s.poll.replies = s.statusWord :: s.replies := by
  unfold poll; split <;> rfl
@[simp] theorem poll_fresh (s : State) : s.poll.fresh = s.fresh + 1 := by
  unfold poll; split <;> rfl

end Sys2Proof.Machine.State
end

