-- ==== Sys2Proof/Laws/Ops.lean ====
section
/-! SUPPORT. One spec lemma per shared operation: what it can do, said once, for proofs to cite instead of unfolding it. -/

namespace Sys2Proof.Machine

/-! ## Commands -/

theorem whenIdle_busy {s : State} (h : s.busy = true) (t : State) : whenIdle s t = .next s := by
  simp [whenIdle, h]

theorem whenIdle_idle {s : State} (h : s.busy = false) (t : State) : whenIdle s t = .next t := by
  simp [whenIdle, h]

/-- A command is turned away by a busy block, accepted by an idle one, or completes as illegal; it always answers next. -/
theorem exec_cases (i : Instr) (s : State) :
    (s.busy = true ∧ exec i s = .next s) ∨
    (s.busy = false ∧ ∃ w, i = .encode w ∧ exec i s = .next (s.accept .encode w)) ∨
    (s.busy = false ∧ ∃ w, i = .decode w ∧ exec i s = .next (s.accept .decode w)) ∨
    (s.busy = false ∧ (i = .illegalOp0 ∨ i = .illegalOp3) ∧ exec i s = .next s.illegal) := by
  cases hb : s.busy
  · cases i <;> simp [exec, execEncode, execDecode, execIllegalOp0, execIllegalOp3, whenIdle, hb]
  · left
    cases i <;> simp [exec, execEncode, execDecode, execIllegalOp0, execIllegalOp3, whenIdle, hb]

theorem busWrite_cmd (v : Word) (s : State) : busWrite .cmd v s = exec (decodeWord v) s := rfl

theorem busWrite_store {r : Reg} (h : r ≠ .cmd) (v : Word) (s : State) :
    busWrite r v s = .next (s.storeReg v r) := by
  cases r <;> first | exact absurd rfl h | rfl

/-- What is written to a read-only or reserved register is ignored. -/
theorem storeReg_ignored {r : Reg} (h : r.access ≠ .rw) (s : State) (v : Word) : s.storeReg v r = s := by
  cases r <;> first | rfl | exact absurd rfl h

/-! ## The register window -/

theorem regAt_offset (r : Reg) : regAt r.offset = r := by
  cases r <;> decide

theorem definedAccess_offset (r : Reg) : definedAccess r.offset 4 = true := by
  cases r <;> decide

/-! ## The end of an operation -/

/-- An operation ends with a frame, with a value, or with a code; ENCODE with no value, DECODE with no frame. -/
theorem encodeOp_cases (W : Nat) (v : DWord) (C : Word) :
    (encodeOp W v C = .raised .overflow) ∨ (encodeOp W v C = .raised .bufferTooSmall) ∨
    (encodeOp W v C = .encoded (emit (needed (operandValue W v)) (operandValue W v)) ∧
      ¬ (W > Config.maxBits ∧ (operandValue W v).toNat ≥ 2 ^ Config.maxBits) ∧
      needed (operandValue W v) ≤ budget W ∧ needed (operandValue W v) ≤ C.toNat) := by
  by_cases h1 : W > Config.maxBits ∧ (operandValue W v).toNat ≥ 2 ^ Config.maxBits
  · exact .inl (by simp only [encodeOp, if_pos h1])
  · by_cases h2 : needed (operandValue W v) > budget W
    · exact .inl (by simp only [encodeOp, if_neg h1, if_pos h2])
    · by_cases h3 : C.toNat < needed (operandValue W v)
      · exact .inr (.inl (by simp only [encodeOp, if_neg h1, if_neg h2, if_pos h3]))
      · exact .inr (.inr ⟨by simp only [encodeOp, if_neg h1, if_neg h2, if_neg h3], h1, by omega, by omega⟩)

theorem exhausted_cases (B L : Nat) :
    (L < B ∧ exhausted B L = .raised .bufferTooSmall) ∨ (B ≤ L ∧ exhausted B L = .raised .overflow) := by
  by_cases h : L < B
  · exact .inl ⟨h, by simp [exhausted, h]⟩
  · exact .inr ⟨by omega, by simp [exhausted, h]⟩

/-- The scan raises one of DECODE's three codes or ends with a value. -/
theorem scan_cases (B limit L : Nat) (bs : List Byte) (i shift : Nat) (value : DWord) :
    (∃ c, scan B limit L bs i shift value = .raised c ∧ (c = .overflow ∨ c = .bufferTooSmall ∨ c = .notMinimal)) ∨
    (∃ v n, scan B limit L bs i shift value = .decoded v n) := by
  induction bs generalizing i shift value with
  | nil => rcases exhausted_cases B L with ⟨_, h⟩ | ⟨_, h⟩ <;> simp [scan, h]
  | cons b rest ih =>
    unfold scan
    split
    · rcases exhausted_cases B L with ⟨_, h⟩ | ⟨_, h⟩ <;> simp [h]
    · split
      · simp
      · split
        · simp
        · dsimp only
          split
          · exact ih ..
          · split
            · simp
            · simp

end Sys2Proof.Machine
end

