-- ==== Sys2Proof/Laws/Words.lean ====
section
/-! SUPPORT. The words and bytes the model puts together from fields, as numbers. -/

namespace Sys2Proof.Machine

/-- Concatenation as arithmetic. -/
theorem append_toNat {m n : Nat} (a : BitVec m) (b : BitVec n) : (a ++ b).toNat = a.toNat * 2 ^ n + b.toNat := by
  rw [BitVec.toNat_append, ← Nat.shiftLeft_add_eq_or_of_lt b.isLt, Nat.shiftLeft_eq]

theorem laneWord_toNat (b0 b1 b2 b3 : Byte) :
    (laneWord b0 b1 b2 b3).toNat = b0.toNat + 2 ^ 8 * b1.toNat + 2 ^ 16 * b2.toNat + 2 ^ 24 * b3.toNat := by
  unfold laneWord
  rw [append_toNat, append_toNat, append_toNat]
  omega

theorem wordOfBytes_toNat (b0 b1 b2 b3 : Byte) :
    (wordOfBytes b0 b1 b2 b3).toNat = b0.toNat + 2 ^ 8 * b1.toNat + 2 ^ 16 * b2.toNat + 2 ^ 24 * b3.toNat :=
  laneWord_toNat b0 b1 b2 b3

theorem lane_toNat (k : Nat) (v : Word) : (lane k v).toNat = v.toNat / 2 ^ (8 * k) % 2 ^ 8 := by
  simp [lane, Nat.shiftRight_eq_div_pow]

theorem commandWord_toNat (wsel op : BitVec 2) : (commandWord wsel op).toNat = 16 * wsel.toNat + op.toNat := by
  unfold commandWord
  rw [append_toNat, append_toNat, append_toNat]
  simp
  omega

theorem opField_toNat (c : Word) : (opField c).toNat = c.toNat % 4 := by simp [opField]

theorem wselField_toNat (c : Word) : (wselField c).toNat = c.toNat / 16 % 4 := by
  simp [wselField, Nat.shiftRight_eq_div_pow]

theorem statusWord_toNat (s : State) :
    s.statusWord.toNat = s.busy.toNat + 2 * s.done.toNat + 16 * s.result.code.toNat := by
  unfold State.statusWord
  rw [append_toNat, append_toNat, append_toNat, append_toNat]
  simp
  omega

theorem wireByte_toNat (cont : Bool) (chunk : BitVec 7) :
    (wireByte cont chunk).toNat = cont.toNat * 128 + chunk.toNat := by
  unfold wireByte
  rw [append_toNat]
  simp

theorem chunkOf_toNat (b : Byte) : (chunkOf b).toNat = b.toNat % 128 := by simp [chunkOf]

theorem contOf_eq (b : Byte) : contOf b = decide (128 ≤ b.toNat) := by
  revert b
  decide

theorem operandValue_toNat (W : Nat) (v : DWord) :
    (operandValue W v).toNat = if W < 64 then v.toNat % 2 ^ W else v.toNat := by
  unfold operandValue
  split
  · have h : v.toNat % 2 ^ W ≤ v.toNat := Nat.mod_le ..
    have := v.isLt
    simp
    omega
  · rfl

end Sys2Proof.Machine
end

