-- ==== Sys2Proof/Laws/PerInstr.lean ====
section
/-! SUPPORT. The per-instruction family EncodedFields: the OP and WSEL fields of each instruction's own word (30_encoding
R103, R104), one lemma per constructor of Instr. -/

namespace Sys2Proof.Laws.EncodedFields

/-- The fields that the command word of an instruction carries. -/
def Statement (i : Instr) : Prop :=
  match i with
  | .encode w => opField (Sys2Proof.encode i) = 0b01#2 ∧ wselField (Sys2Proof.encode i) = wselOf w
  | .decode w => opField (Sys2Proof.encode i) = 0b10#2 ∧ wselField (Sys2Proof.encode i) = wselOf w
  | .illegalOp0 => opField (Sys2Proof.encode i) = 0b00#2
  | .illegalOp3 => opField (Sys2Proof.encode i) = 0b11#2

theorem encode (w : Width) : Statement (.encode w) := by
  cases w <;> exact ⟨by decide, by decide⟩

theorem decode (w : Width) : Statement (.decode w) := by
  cases w <;> exact ⟨by decide, by decide⟩

theorem illegalOp0 : Statement .illegalOp0 := by
  show opField _ = _
  decide

theorem illegalOp3 : Statement .illegalOp3 := by
  show opField _ = _
  decide

end Sys2Proof.Laws.EncodedFields
end

