-- ==== Sys2Proof/Laws/Step.lean ====
section
/-! SUPPORT. The inversion lemma of one step: everything a step can do, said once. -/

namespace Sys2Proof.Machine

theorem dueSnapshot_eq_some {s : State} {S : Snapshot} (h : s.dueSnapshot = some S) :
    s.busy = true ∧ s.snap = some S ∧ s.bus.head? ≠ some .reset ∧ (s.hold = 0 ∨ s.bus = []) := by
  unfold State.dueSnapshot at h
  split at h
  · rename_i hc
    simp [State.blockMovesNext, State.resetNext] at hc
    exact ⟨hc.1, h, hc.2.1, hc.2.2⟩
  · simp at h

theorem dueSnapshot_of {s : State} {S : Snapshot} (hb : s.busy = true) (hs : s.snap = some S)
    (hr : s.bus.head? ≠ some .reset) (hh : s.hold = 0 ∨ s.bus = []) : s.dueSnapshot = some S := by
  have : s.blockMovesNext = true := by simp [State.blockMovesNext, State.resetNext, hr, hh]
  simp [State.dueSnapshot, hb, hs, this]

theorem dueSnapshot_idle {s : State} (h : s.busy = false) : s.dueSnapshot = none := by
  simp [State.dueSnapshot, h]

theorem dueSnapshot_reset {s : State} {rest : List BusEvent} (h : s.bus = .reset :: rest) : s.dueSnapshot = none := by
  simp [State.dueSnapshot, State.blockMovesNext, State.resetNext, h]

theorem step_due {s : State} {S : Snapshot} (h : s.dueSnapshot = some S) :
    step s = .next (s.finish (runSnapshot S)) := by
  simp [step, h, State.complete]

theorem step_host {s : State} (h : s.dueSnapshot = none) : step s = hostTurn s := by
  simp [step, h]

theorem step_event {s : State} {e : BusEvent} {rest : List BusEvent} (h : s.dueSnapshot = none)
    (hb : s.bus = e :: rest) : step s = hostEvent e (s.afterEvent rest) := by
  simp [step, h, hostTurn, hb]

/-- One step that answers next is a completion, an idle turn, a read, a command, a store, a poll or a reset. -/
theorem step_cases {s t : State} (h : step s = .next t) :
    (∃ S, s.dueSnapshot = some S ∧ t = s.finish (runSnapshot S)) ∨
    (s.dueSnapshot = none ∧ s.bus = [] ∧ t = s) ∨
    (s.dueSnapshot = none ∧ ∃ off rest, s.bus = .read off 4 :: rest ∧ definedAccess off 4 = true ∧
      t = (s.afterEvent rest).busRead (regAt off)) ∨
    (s.dueSnapshot = none ∧ ∃ off v rest, s.bus = .write off 4 v :: rest ∧ definedAccess off 4 = true ∧
      regAt off = .cmd ∧ exec (decodeWord v) (s.afterEvent rest) = .next t) ∨
    (s.dueSnapshot = none ∧ ∃ off v rest, s.bus = .write off 4 v :: rest ∧ definedAccess off 4 = true ∧
      regAt off ≠ .cmd ∧ t = (s.afterEvent rest).storeReg v (regAt off)) ∨
    (s.dueSnapshot = none ∧ ∃ rest, s.bus = .wait :: rest ∧ t = (s.afterEvent rest).poll) ∨
    (s.dueSnapshot = none ∧ ∃ rest, s.bus = .reset :: rest ∧ t = (s.afterEvent rest).blockReset) := by
  cases hd : s.dueSnapshot with
  | some S =>
    rw [step_due hd] at h
    injection h with h
    exact .inl ⟨S, rfl, h.symm⟩
  | none =>
    right
    cases hb : s.bus with
    | nil =>
      simp [step_host hd, hostTurn, hb] at h
      exact .inl ⟨rfl, rfl, h.symm⟩
    | cons e rest =>
      right
      rw [step_event hd hb] at h
      cases e with
      | read off n =>
        simp only [hostEvent] at h
        split at h
        · rename_i hdef
          injection h with h
          have hn : n = 4 := by simp [definedAccess] at hdef; exact hdef.1
          subst hn
          exact .inl ⟨rfl, off, rest, rfl, hdef, h.symm⟩
        · cases h
      | write off n v =>
        simp only [hostEvent] at h
        split at h
        · rename_i hdef
          have hn : n = 4 := by simp [definedAccess] at hdef; exact hdef.1
          subst hn
          by_cases hc : regAt off = .cmd
          · rw [hc, busWrite_cmd] at h
            exact .inr (.inl ⟨rfl, off, v, rest, rfl, hdef, hc, h⟩)
          · rw [busWrite_store hc] at h
            injection h with h
            exact .inr (.inr (.inl ⟨rfl, off, v, rest, rfl, hdef, hc, h.symm⟩))
        · cases h
      | wait =>
        injection h with h
        exact .inr (.inr (.inr (.inl ⟨rfl, rest, rfl, h.symm⟩)))
      | reset =>
        injection h with h
        exact .inr (.inr (.inr (.inr ⟨rfl, rest, rfl, h.symm⟩)))

/-- One step that does not answer next is refused, for an access that R62 does not define. -/
theorem step_stops {s : State} (h : ∀ t, step s ≠ .next t) :
    step s = .refused .undefinedAccess ∧ s.dueSnapshot = none ∧
      ∃ e rest, s.bus = e :: rest ∧ e ≠ .wait ∧ e ≠ .reset := by
  cases hd : s.dueSnapshot with
  | some S => exact absurd (step_due hd) (h _)
  | none =>
    cases hb : s.bus with
    | nil => exact absurd (by simp [step_host hd, hostTurn, hb]) (h s)
    | cons e rest =>
      have he := step_event hd hb
      cases e with
      | read off n =>
        simp only [hostEvent] at he
        split at he
        · exact absurd he (h _)
        · exact ⟨he, rfl, _, _, rfl, by simp, by simp⟩
      | write off n v =>
        simp only [hostEvent] at he
        split at he
        · by_cases hc : regAt off = .cmd
          · rw [hc, busWrite_cmd] at he
            rcases exec_cases (decodeWord v) (s.afterEvent rest) with ⟨_, h'⟩ | ⟨_, _, _, h'⟩ | ⟨_, _, _, h'⟩ | ⟨_, _, h'⟩ <;>
              exact absurd (he.trans h') (h _)
          · rw [busWrite_store hc] at he
            exact absurd he (h _)
        · exact ⟨he, rfl, _, _, rfl, by simp, by simp⟩
      | wait => exact absurd he (h _)
      | reset => exact absurd he (h _)

end Sys2Proof.Machine
end

