-- ==== Sys2Proof/Tests/Slice0.lean ====
section
/-! SUPPORT. The model's own tests: the smoke tests of WellFormed, the decoding of words written out from 30_encoding
R102 to R107, single steps with results from 95_test_vectors.md, and for every statement with hypotheses a state and
operands that meet them all (`witness_<statement>`). -/

namespace Sys2Proof.Machine.Tests

/-! ## Small states -/

/-- The state after reset with ENCODE's operands. -/
def encodeInputs (v : DWord) (cap : Word) : State := { State.reset with valueIn := v, outCap := cap }

/-- The state after reset with DECODE's operands. -/
def decodeInputs (b : Vector Byte 9) (l : Word) : State := { State.reset with inBuf := b, inLen := l }

/-- A command in flight, `q` waiting on the bus, `h` host steps to go. -/
def inFlight (S : Snapshot) (q : List BusEvent) (h : Nat) : State :=
  { State.reset with busy := true, snap := some S, bus := q, hold := h }

/-- A snapshot of an ENCODE. -/
def encodeSnap (w : Width) (v : DWord) (c : Word) : Snapshot :=
  { op := .encode, w := w, v := v, c := c, l := 0#32, inp := Vector.replicate 9 0#8 }

/-- A snapshot of a DECODE. -/
def decodeSnap (w : Width) (b : Vector Byte 9) (l : Word) : Snapshot :=
  { op := .decode, w := w, v := 0#64, c := 0#32, l := l, inp := b }

/-- An idle state with accesses waiting. -/
def idleWith (q : List BusEvent) : State := { State.reset with bus := q }

/-- What a property of the next state is, where there is one. -/
def nextHas (o : Host.Outcome State Fault Refusal) (p : State → Bool) : Bool :=
  match o with
  | .next t => p t
  | .fault _ => false
  | .refused _ => false

/-! ## Well-formedness -/

/-- R24: a word with a reserved bit set is not as software writes it. -/
theorem test_canonicalWord_refuses_reserved_bits :
    canonicalWord 0x00000041#32 = false ∧ canonicalWord 0x00000005#32 = false ∧ canonicalWord 0x00000031#32 = true := by
  decide

/-- R62, T-R-10: a 16-bit access, and a 32-bit access at offset 0x06, are not defined. -/
theorem test_definedAccess_refuses :
    definedAccess 0x04#6 2 = false ∧ definedAccess 0x06#6 4 = false ∧ definedAccess 0x04#6 4 = true := by
  decide

/-- R24, R164: there is no ill-formed instruction. -/
theorem test_every_instruction_is_well_formed (i : Instr) : i.wellFormed = true := by
  cases i <;> rfl

/-! ## Decoding: words written out field by field (R102: reserved, WSEL, reserved, OP) -/

theorem test_decode_word_encode_w32 :
    decodeWord (0b00000000000000000000000000#26 ++ 0b10#2 ++ 0b00#2 ++ 0b01#2) = .encode .w32 := by decide

theorem test_decode_word_decode_w16 :
    decodeWord (0b00000000000000000000000000#26 ++ 0b01#2 ++ 0b00#2 ++ 0b10#2) = .decode .w16 := by decide

theorem test_decode_word_illegalOp0 :
    decodeWord (0b11111111111111111111111111#26 ++ 0b11#2 ++ 0b00#2 ++ 0b00#2) = .illegalOp0 := by decide

theorem test_decode_word_illegalOp3 :
    decodeWord (0b00000000000000000000000000#26 ++ 0b00#2 ++ 0b00#2 ++ 0b11#2) = .illegalOp3 := by decide

/-- T-C-4: 0xFFFF_FFFD acts as ENCODE.W64. -/
theorem test_decode_word_reserved_bits_set : decodeWord 0xFFFFFFFD#32 = .encode .w64 := by decide

/-- R107: word 0x12, laid out in bytes, and too long a row. -/
theorem test_decodeTableWord :
    decodeTableWord 32 0x12 = some (.decode .w16) ∧ decodeTableWord 40 0x12 = none := by decide

/-! ## Single steps (95_test_vectors.md) -/

/-- T-E-12: ENCODE.W32 of 300 with OUT_CAP 9. -/
theorem test_encode_300 :
    nextHas (step (inFlight (encodeSnap .w32 300#64 9#32) [] 0)) (fun t =>
      t.outBuf == #v[some 0xAC#8, some 0x02#8, none, none, none, none, none, none, none] &&
      t.outLen == some 2#4 && t.valueOut == none && t.statusWord == 0x02#32) = true := by decide

/-- T-E-26: ENCODE.W64 of 2^63 with OUT_CAP 0: Overflow beats BufferTooSmall. -/
theorem test_encode_overflow_beats_capacity :
    nextHas (step (inFlight (encodeSnap .w64 0x8000000000000000#64 0#32) [] 0)) (fun t =>
      t.statusWord == 0x12#32) = true := by decide

/-- T-D-17: DECODE.W32 of [0xAC, 0x02, 0xFF], IN_LEN 3. -/
theorem test_decode_300 :
    nextHas (step (inFlight (decodeSnap .w32 #v[0xAC, 0x02, 0xFF, 0, 0, 0, 0, 0, 0] 3#32) [] 0)) (fun t =>
      t.valueOut == some 300#64 && t.outLen == some 2#4 && t.statusWord == 0x02#32) = true := by decide

/-- T-D-5: DECODE.W8 of [0x80, 0x02], IN_LEN 2: the chunk-range test beats the terminal byte. -/
theorem test_decode_range_beats_terminal :
    nextHas (step (inFlight (decodeSnap .w8 #v[0x80, 0x02, 0, 0, 0, 0, 0, 0, 0] 2#32) [] 0)) (fun t =>
      t.statusWord == 0x12#32) = true := by decide

/-- T-C-3: WR CMD, 0xFFFF_FFF0 on an idle block. -/
theorem test_illegalOp0_status :
    nextHas (step (idleWith [wr .cmd 0xFFFFFFF0#32])) (fun t => t.statusWord == 0x42#32) = true := by decide

/-- T-C-2: WR CMD, 3 on an idle block. -/
theorem test_illegalOp3_status :
    nextHas (step (idleWith [wr .cmd 3#32])) (fun t => t.statusWord == 0x42#32) = true := by decide

/-- T-C-6: WR CMD, 3 while BUSY = 1 is ignored. -/
theorem test_illegalOp3_while_busy :
    nextHas (step (inFlight (encodeSnap .w32 300#64 9#32) [wr .cmd 3#32] 1)) (fun t =>
      t.statusWord == 0x01#32 && t.snap == some (encodeSnap .w32 300#64 9#32)) = true := by decide

/-- T-R-1: WR IN_BUF2, 0xFFFF_FFFF reads back as 0xFF. -/
theorem test_inBuf2_reserved_bits (d : Word) : (State.reset.storeReg 0xFFFFFFFF#32 .inBuf2).readReg d .inBuf2 = 0xFF#32 := by
  rfl

/-- T-R-9: OUT_BUF0 after T-E-12: bits 15:0 are 0x02AC, whatever the draw. -/
theorem test_outBuf0_lanes (d : Word) :
    (State.reset.finish (.encoded [0xAC#8, 0x02#8])).readReg d .outBuf0 = lane 3 d ++ lane 2 d ++ 0x02AC#16 := by
  show (lane 3 d ++ lane 2 d ++ 0x02#8 ++ 0xAC#8 : Word) = lane 3 d ++ lane 2 d ++ 0x02AC#16
  rw [show (0x02AC#16 : BitVec 16) = 0x02#8 ++ 0xAC#8 from rfl]
  apply BitVec.eq_of_toNat_eq
  simp only [BitVec.toNat_append, Nat.shiftLeft_or_distrib, ← Nat.shiftLeft_add, Nat.or_assoc]

/-! ## Witnesses of the statements' hypotheses, at the boundaries of their clauses -/

theorem witness_completesNow : CompletesNow [] 3 ∧ CompletesNow [.wait, .reset] 0 :=
  ⟨⟨by decide, .inr rfl⟩, ⟨by decide, .inl rfl⟩⟩

theorem witness_EveryWordSelectsByOpAndWsel :
    (0xFFFFFFFD#32).toNat % 4 = 1 ∧ (0x00000002#32).toNat % 4 = 2 ∧ (0xFFFFFFFC#32).toNat % 4 = 0 ∧
    (0x00000003#32).toNat % 4 = 3 ∧ State.reset.busy = false := by decide

theorem witness_DecodeAndEncodeAgree :
    (Instr.encode .w64).wellFormed = true ∧ canonicalWord 0x31#32 = true ∧ (0x31#32).toNat % 4 = 1 ∧
    canonicalWord 0x02#32 = true ∧ (0x02#32).toNat % 4 = 2 := by decide

theorem witness_StepRunsTheCommandWritten :
    decodeTableWord 32 0x31 = some (.encode .w64) ∧
    (idleWith [.write 0x00#6 4 0x31#32]).bus = [.write 0x00#6 4 0x31#32] ∧
    (idleWith [.write 0x00#6 4 0x31#32]).dueSnapshot = none ∧
    (inFlight (encodeSnap .w8 0#64 0#32) [.write 0x00#6 4 0x31#32] 1).dueSnapshot = none := by decide

theorem witness_AcceptedCommandTakesSnapshot :
    State.reset.busy = false ∧ (0x31#32).toNat % 4 = 1 ∧ (0x02#32).toNat % 4 = 2 := by decide

theorem witness_CommandWhileBusyChangesNothing :
    (inFlight (encodeSnap .w8 0#64 0#32) [] 0).busy = true := by decide

theorem witness_IllegalCommandCompletesAtOnce :
    (0#32).toNat % 4 = 0 ∧ (3#32).toNat % 4 = 3 ∧ State.reset.busy = false ∧
    (inFlight (encodeSnap .w8 0#64 0#32) [] 0).busy = true := by decide

/-- Overflow at exactly 2^63, BufferTooSmall one byte short, Ok with exactly the room needed. -/
theorem witness_EncodeEndsWithTheCodeOfItsOperands :
    (encodeInputs 0x8000000000000000#64 9#32).busy = false ∧
    (encodeInputs 0x8000000000000000#64 9#32).encodeValue .w64 ≥ 2 ^ 63 ∧
    (encodeInputs 0x8000000000000000#64 9#32).valueIn.getLsbD 63 = true ∧
    (encodeInputs 0x7FFFFFFFFFFFFFFF#64 8#32).encodeValue .w64 < 2 ^ 63 ∧
    (encodeInputs 0x7FFFFFFFFFFFFFFF#64 8#32).outCap.toNat <
      frameLength ((encodeInputs 0x7FFFFFFFFFFFFFFF#64 8#32).encodeValue .w64) ∧
    frameLength ((encodeInputs 0x7FFFFFFFFFFFFFFF#64 9#32).encodeValue .w64) ≤
      (encodeInputs 0x7FFFFFFFFFFFFFFF#64 9#32).outCap.toNat := by decide

theorem witness_EncodeLeavesTheFrame :
    (encodeInputs 0x7FFFFFFFFFFFFFFF#64 9#32).busy = false ∧
    ¬ (Width.w64.bits > 63 ∧ (encodeInputs 0x7FFFFFFFFFFFFFFF#64 9#32).encodeValue .w64 ≥ 2 ^ 63) ∧
    frameLength ((encodeInputs 0x7FFFFFFFFFFFFFFF#64 9#32).encodeValue .w64) ≤
      (encodeInputs 0x7FFFFFFFFFFFFFFF#64 9#32).outCap.toNat ∧
    frameLength ((encodeInputs 0x1FF#64 2#32).encodeValue .w8) ≤ (encodeInputs 0x1FF#64 2#32).outCap.toNat := by decide

theorem witness_EncodeFailureLeavesNoOutput :
    (encodeInputs 0x8000000000000000#64 9#32).busy = false ∧
    (Width.w64.bits > 63 ∧ (encodeInputs 0x8000000000000000#64 9#32).encodeValue .w64 ≥ 2 ^ 63) ∧
    (encodeInputs 0x80#64 1#32).outCap.toNat < frameLength ((encodeInputs 0x80#64 1#32).encodeValue .w8) := by decide

theorem witness_CapacityLaw :
    ¬ (64 > 63 ∧ (operandValue 64 0x7FFFFFFFFFFFFFFF#64).toNat ≥ 2 ^ 63) ∧
    needed (operandValue 64 0x7FFFFFFFFFFFFFFF#64) ≤ (9#32).toNat ∧ 9 ≤ (9#32).toNat ∧ 9 ≤ (0xFFFFFFFF#32).toNat := by
  decide

theorem witness_BudgetCheckNeverFires :
    ¬ (64 > 63 ∧ (operandValue 64 0x7FFFFFFFFFFFFFFF#64).toNat ≥ 2 ^ 63) ∧
    ¬ (1 > 63 ∧ (operandValue 1 1#64).toNat ≥ 2 ^ 63) := by decide

theorem witness_EncodeOverflowBeforeBufferTooSmall :
    (64 > 63 ∧ (operandValue 64 0x8000000000000000#64).toNat ≥ 2 ^ 63) ∧
    encodeOp 8 0x80#64 1#32 = .raised .bufferTooSmall := by decide

theorem witness_ValueBitsAboveTheWidthIgnored : (0x1FF#64).toNat % 2 ^ 8 = (0xFF#64).toNat % 2 ^ 8 := by decide

theorem witness_BudgetIndexTimesSevenBelowBitLimit : 1 ≤ 64 ∧ 8 < budget 64 ∧ 0 < budget 1 := by decide

/-- The last byte of the budget at W = 64, and the one byte of W = 1; a continuation byte, an overflow, a zero byte. -/
theorem witness_ScanNeverStopsAtTheShiftLimit :
    1 ≤ 64 ∧ 8 < 9 ∧ 8 < budget 64 ∧ 1 ≤ 1 ∧ 0 < budget 1 ∧
    (limitBits 1 - 7 * 0 < 7 ∧ 2 ^ (limitBits 1 - 7 * 0) ≤ (0x02#8).toNat % 128) ∧
    ¬ (limitBits 64 - 7 * 8 < 7) ∧ 128 ≤ (0x80#8).toNat ∧ (0 < 8 ∧ (0x00#8).toNat = 0) := by decide

theorem witness_DecodeAcceptsExactlyCanonicalFrames :
    decodeOp 64 #v[0xFF, 0xFF, 0xFF, 0xFF, 0xFF, 0xFF, 0xFF, 0xFF, 0x7F] 9#32 = .decoded 0x7FFFFFFFFFFFFFFF#64 9 := by
  decide

theorem witness_DecodeLeavesTheValue :
    (decodeInputs #v[0xFF, 0x01, 0, 0, 0, 0, 0, 0, 0] 2#32).busy = false ∧
    (255#64).toNat < 2 ^ limitBits Width.w8.bits ∧
    frameLength (255#64).toNat ≤ (decodeInputs #v[0xFF, 0x01, 0, 0, 0, 0, 0, 0, 0] 2#32).inLen.toNat ∧
    (∀ k (h : k < 9), k < frameLength (255#64).toNat →
      (decodeInputs #v[0xFF, 0x01, 0, 0, 0, 0, 0, 0, 0] 2#32).inBuf[k] = frameByte (255#64).toNat k) := by decide

theorem witness_DecodeFailureLeavesNoOutput :
    (decodeInputs #v[0x81, 0x00, 0, 0, 0, 0, 0, 0, 0] 2#32).busy = false ∧
    ¬ ∃ v n, decodeOp Width.w8.bits (decodeInputs #v[0x81, 0x00, 0, 0, 0, 0, 0, 0, 0] 2#32).inBuf
      (decodeInputs #v[0x81, 0x00, 0, 0, 0, 0, 0, 0, 0] 2#32).inLen = .decoded v n := by
  refine ⟨rfl, ?_⟩
  rintro ⟨v, n, h⟩
  rw [show decodeOp Width.w8.bits (decodeInputs #v[0x81, 0x00, 0, 0, 0, 0, 0, 0, 0] 2#32).inBuf
      (decodeInputs #v[0x81, 0x00, 0, 0, 0, 0, 0, 0, 0] 2#32).inLen = .raised .notMinimal by decide] at h
  cases h

/-- Both sides of the length test: L one below the budget of W = 16, and L at the budget of W = 8. -/
theorem witness_DecodeExhaustedByLength :
    ((2#32).toNat < budget 16 ∧ ∀ k (h : k < 9), k < min (2#32).toNat (budget 16) →
      (#v[0x80, 0x80, 0, 0, 0, 0, 0, 0, 0] : Vector Byte 9)[k].toNat ≥ 128 ∧
      (#v[0x80, 0x80, 0, 0, 0, 0, 0, 0, 0] : Vector Byte 9)[k].toNat % 128 * 2 ^ (7 * k) < 2 ^ limitBits 16) ∧
    (¬ (2#32).toNat < budget 8 ∧ ∀ k (h : k < 9), k < min (2#32).toNat (budget 8) →
      (#v[0xFF, 0x81, 0, 0, 0, 0, 0, 0, 0] : Vector Byte 9)[k].toNat ≥ 128 ∧
      (#v[0xFF, 0x81, 0, 0, 0, 0, 0, 0, 0] : Vector Byte 9)[k].toNat % 128 * 2 ^ (7 * k) < 2 ^ limitBits 8) := by decide

theorem witness_DecodeOverflowAtTheLastBudgetByte :
    4 + 1 = budget 32 ∧ 4 < (5#32).toNat ∧
    (∀ k (h : k < 9), k < 4 → (#v[0xFF, 0xFF, 0xFF, 0xFF, 0x10, 0, 0, 0, 0] : Vector Byte 9)[k].toNat ≥ 128) ∧
    (#v[0xFF, 0xFF, 0xFF, 0xFF, 0x10, 0, 0, 0, 0] : Vector Byte 9)[4].toNat % 128 ≥ 2 ^ (limitBits 32 - 7 * 4) := by
  decide

theorem witness_DecodeRejectsTrailingZeroByte :
    (0 < 8 ∧ 8 < min (9#32).toNat (budget 64) ∧
      (∀ k (h : k < 9), k < 8 → (#v[0x80, 0x80, 0x80, 0x80, 0x80, 0x80, 0x80, 0x80, 0] : Vector Byte 9)[k].toNat ≥ 128) ∧
      (#v[0x80, 0x80, 0x80, 0x80, 0x80, 0x80, 0x80, 0x80, 0] : Vector Byte 9)[8] = 0x00#8) ∧
    ((#v[0, 0x99, 0, 0, 0, 0, 0, 0, 0] : Vector Byte 9)[0] = 0x00#8 ∧ 1 ≤ (1#32).toNat) := by decide

theorem witness_DecodeReadsOnlyTheOfferedBytes :
    min (9#32).toNat (budget 64) = min (12#32).toNat (budget 64) ∧
    (∀ k (h : k < 9), k < min (1#32).toNat (budget 64) →
      (#v[0x80, 0x01, 0, 0, 0, 0, 0, 0, 0] : Vector Byte 9)[k] = (#v[0x80, 0x77, 0, 0, 0, 0, 0, 0, 0] : Vector Byte 9)[k]) ∧
    (#v[0x80, 0x01, 0, 0, 0, 0, 0, 0, 0] : Vector Byte 9)[0] = 0x80#8 := by decide

theorem witness_DecodedValueAndCountBounds :
    decodeOp 16 #v[0xFF, 0xFF, 0x03, 0, 0, 0, 0, 0, 0] 3#32 = .decoded 0xFFFF#64 3 := by decide

theorem witness_VerdictDependsOnTheWidth :
    (#v[0x80, 0x80, 0, 0, 0, 0, 0, 0, 0] : Vector Byte 9)[0] = 0x80#8 ∧
    (#v[0x80, 0x80, 0, 0, 0, 0, 0, 0, 0] : Vector Byte 9)[1] = 0x80#8 ∧
    (∀ k (h : k < 9), (Vector.replicate 9 0xFF#8)[k].toNat ≥ 128) := by decide

theorem witness_DecodeOfEncodeReturnsTheValue :
    ∃ t u, exec (.encode .w32) (encodeInputs 300#64 9#32) = .next t ∧ CompletesNow [] 0 ∧
      step { t with bus := [], hold := 0 } = .next u ∧ u.result = .ok ∧ u.outLen = some (BitVec.ofNat 4 2) ∧
      (decodeInputs #v[0xAC, 0x02, 0, 0, 0, 0, 0, 0, 0] 2#32).busy = false ∧
      2 ≤ (decodeInputs #v[0xAC, 0x02, 0, 0, 0, 0, 0, 0, 0] 2#32).inLen.toNat ∧
      (∀ k (h : k < 9), k < 2 → u.outBuf[k] =
        some (decodeInputs #v[0xAC, 0x02, 0, 0, 0, 0, 0, 0, 0] 2#32).inBuf[k]) :=
  ⟨_, _, rfl, ⟨by decide, .inr rfl⟩, rfl, by decide, by decide, by decide, by decide, by decide⟩

theorem witness_CompletionWritesTheResultTable :
    (inFlight (encodeSnap .w32 300#64 9#32) [rd .status] 0).busy = true ∧
    (inFlight (encodeSnap .w32 300#64 9#32) [rd .status] 0).snap = some (encodeSnap .w32 300#64 9#32) ∧
    CompletesNow (inFlight (encodeSnap .w32 300#64 9#32) [rd .status] 0).bus
      (inFlight (encodeSnap .w32 300#64 9#32) [rd .status] 0).hold ∧
    runSnapshot (encodeSnap .w32 300#64 9#32) = .encoded [0xAC#8, 0x02#8] ∧
    runSnapshot (decodeSnap .w8 #v[0x7F, 0, 0, 0, 0, 0, 0, 0, 0] 1#32) = .decoded 127#64 1 ∧
    runSnapshot (decodeSnap .w8 #v[0x7F, 0, 0, 0, 0, 0, 0, 0, 0] 0#32) = .raised .bufferTooSmall :=
  ⟨by decide, by decide, ⟨by decide, .inl rfl⟩, by decide, by decide, by decide⟩

theorem witness_CompletionDependsOnTheSnapshotAlone :
    (inFlight (encodeSnap .w32 300#64 9#32) [] 2).dueSnapshot = some (encodeSnap .w32 300#64 9#32) ∧
    (inFlight { encodeSnap .w32 300#64 9#32 with l := 7#32 } [.wait] 0).dueSnapshot =
      some { encodeSnap .w32 300#64 9#32 with l := 7#32 } ∧
    (inFlight (decodeSnap .w32 (Vector.replicate 9 0x80#8) 9#32) [] 0).dueSnapshot =
      some (decodeSnap .w32 (Vector.replicate 9 0x80#8) 9#32) ∧
    (encodeSnap .w32 300#64 9#32).op = .encode ∧
    (decodeSnap .w32 (Vector.replicate 9 0x80#8) 9#32).op = .decode := by decide

theorem witness_HostCannotReadTheSnapshot :
    (inFlight (encodeSnap .w32 300#64 9#32) [wr .valueInLo 5#32] 1).busy = true ∧
    (inFlight (encodeSnap .w32 300#64 9#32) [wr .valueInLo 5#32] 1).dueSnapshot = none ∧
    (inFlight (encodeSnap .w32 300#64 9#32) [wr .valueInLo 5#32] 1).snap.isSome = true ∧
    ∃ t, step (inFlight (encodeSnap .w32 300#64 9#32) [wr .valueInLo 5#32] 1) = .next t :=
  ⟨by decide, by decide, by decide, _, rfl⟩

theorem witness_AcceptedCommandCompletes :
    (inFlight (encodeSnap .w32 300#64 9#32) [.wait, wr .cmd 3#32] 5).busy = true ∧
    (inFlight (encodeSnap .w32 300#64 9#32) [.wait, wr .cmd 3#32] 5).snap = some (encodeSnap .w32 300#64 9#32) ∧
    (inFlight (encodeSnap .w32 300#64 9#32) [.wait, wr .cmd 3#32] 5).busAllowed = true ∧
    BusEvent.reset ∉ (inFlight (encodeSnap .w32 300#64 9#32) [.wait, wr .cmd 3#32] 5).bus := by decide

theorem witness_OnlyUndefinedAccessesStop :
    step (idleWith [.read 0x04#6 2]) = .refused .undefinedAccess ∧
    (idleWith [rd .status, .reset]).busAllowed = true := ⟨rfl, by decide⟩

theorem witness_ReadHasNoSideEffect :
    (idleWith [rd .outLen]).dueSnapshot = none ∧ (idleWith [rd .outLen]).bus = [.read Reg.outLen.offset 4] ∧
    (inFlight (encodeSnap .w32 300#64 9#32) [rd .status] 1).dueSnapshot = none := by decide

theorem witness_ResultRegisterReads (d : Word) :
    (∀ k (h : k < 9), (fun i : Fin 9 => (BitVec.ofNat 8 (d.toNat / 2 ^ (8 * (i.val % 4))) : Byte)) ⟨k, h⟩ =
      State.reset.outBuf[k].getD (BitVec.ofNat 8 (d.toNat / 2 ^ (8 * (k % 4))))) ∧
    State.reset.outLen = none ∧ State.reset.valueOut = none ∧
    (State.reset.finish (.decoded 300#64 2)).outLen = some 2#4 ∧
    (State.reset.finish (.decoded 300#64 2)).valueOut = some 300#64 :=
  ⟨fun k h => by simp [State.reset, unspecBuf], rfl, rfl, rfl, rfl⟩

theorem witness_OperandReadsBackAsWritten : Reg.valueInLo.access = .rw ∧ Reg.inBuf2.access = .rw := by decide

theorem witness_OperandWriteChangesOnlyItsRegister :
    Reg.valueInLo.access = .rw ∧
    (inFlight (encodeSnap .w32 300#64 9#32) [.write Reg.valueInLo.offset 4 5#32] 1).dueSnapshot = none ∧
    (inFlight (encodeSnap .w32 300#64 9#32) [.write Reg.valueInLo.offset 4 5#32] 1).bus =
      [.write Reg.valueInLo.offset 4 5#32] := by decide

theorem witness_ReadOnlyWriteIgnored :
    Reg.status.access = .ro ∧ Reg.reserved.access = .res ∧
    (idleWith [.write Reg.status.offset 4 0xFFFFFFFF#32]).dueSnapshot = none ∧
    (idleWith [.write Reg.status.offset 4 0xFFFFFFFF#32]).bus = [.write Reg.status.offset 4 0xFFFFFFFF#32] := by decide

theorem witness_UndefinedAccessRefused :
    (idleWith [.read 0x06#6 4]).dueSnapshot = none ∧ (0x06#6).toNat % 4 ≠ 0 ∧
    (idleWith [.read 0x06#6 4]).bus = [.read 0x06#6 4] ∧
    (idleWith [.write 0x04#6 2 0#32]).bus = [.write 0x04#6 2 0#32] ∧ 2 ≠ 4 := by decide

/-- The first and the last address of the window, and the ones beside it. -/
theorem witness_BusAddressReachesItsRegister :
    (Config.baseAddr ≤ Config.baseAddr ∧ Config.baseAddr ≤ Config.baseAddr + 0x3F) ∧
    (Config.baseAddr ≤ Config.baseAddr + 0x3F ∧ Config.baseAddr + 0x3F ≤ Config.baseAddr + 0x3F) ∧
    Config.baseAddr + 0x3F < Config.baseAddr + 0x40 := by omega

theorem witness_WaitPollsStatus :
    (idleWith [.wait]).dueSnapshot = none ∧ (idleWith [.wait]).bus = [.wait] ∧
    (inFlight (encodeSnap .w32 300#64 9#32) [.wait] 1).dueSnapshot = none := by decide

theorem witness_ResetWinsAndClearsTheBlock :
    (inFlight (encodeSnap .w32 300#64 9#32) [.reset] 0).bus = [.reset] := by decide

theorem witness_OnlyCommandsSetTheFlags :
    (∃ t, step (idleWith [wr .cmd 1#32]) = .next t ∧ (idleWith [wr .cmd 1#32]).busy = false ∧ t.busy = true) ∧
    (∃ t, step (idleWith [wr .cmd 0#32]) = .next t ∧ t.done ≠ (idleWith [wr .cmd 0#32]).done) :=
  ⟨⟨_, rfl, by decide, rfl⟩, ⟨_, rfl, by decide⟩⟩

theorem witness_ResultsStayUntilTheNextCommand :
    (idleWith [rd .status]).busy = false ∧ (∃ t, step (idleWith [rd .status]) = .next t) ∧
    (∀ e rest, (idleWith [rd .status]).bus = e :: rest → e.isCmdWrite = false ∧ e ≠ .reset) := by
  refine ⟨by decide, ⟨_, rfl⟩, ?_⟩
  intro e rest h
  obtain ⟨h1, -⟩ := List.cons.inj (h : [rd .status] = e :: rest)
  subst h1
  decide

theorem witness_IdleBlockHoldsItsRegisters : State.reset.busy = false ∧ State.reset.bus = [] := by decide

theorem witness_StepKeepsTheInvariant :
    (inFlight (encodeSnap .w32 300#64 9#32) [] 0).Inv ∧
    ∃ t, step (inFlight (encodeSnap .w32 300#64 9#32) [] 0) = .next t :=
  ⟨⟨rfl, by decide, fun h => (nomatch h), fun h => (nomatch h), fun _ => ⟨rfl, rfl, rfl⟩, fun h => (nomatch h),
    fun h => (nomatch h)⟩, _, rfl⟩

end Sys2Proof.Machine.Tests
end

section
/-! The byte budget (R93) and the bit limit (R94) in closed form, for every width: which of the two bounds of each `min`
decides, by the width. -/

namespace Sys2Proof.Machine

/-- Up to 63 bits the ceiling of W/7 stays within the 9-byte protocol limit, so it is the budget. -/
theorem budget_of_le {W : Nat} (h : W ≤ 63) : budget W = (W + 6) / 7 :=
  Nat.min_eq_right (show (W + 6) / 7 ≤ 9 by omega)

/-- From 57 bits on the 9-byte protocol limit is the budget. -/
theorem budget_of_ge {W : Nat} (h : 57 ≤ W) : budget W = 9 :=
  Nat.min_eq_left (show 9 ≤ (W + 6) / 7 by omega)

/-- Up to 63 bits every bit of the width is representable. -/
theorem limitBits_of_le {W : Nat} (h : W ≤ 63) : limitBits W = W :=
  Nat.min_eq_left h

/-- From 63 bits on only the low 63 bits are representable. -/
theorem limitBits_of_ge {W : Nat} (h : 63 ≤ W) : limitBits W = 63 :=
  Nat.min_eq_right h

/-- Settles O18: at the widths 8, 16 and 32 the width itself decides, at 64 the 9-byte and 63-bit limits do. -/
theorem widthConstants : Obligations.WidthConstants := by
  have le8 : Width.w8.bits ≤ 63 := by decide
  have le16 : Width.w16.bits ≤ 63 := by decide
  have le32 : Width.w32.bits ≤ 63 := by decide
  have ge64 : 63 ≤ Width.w64.bits := by decide
  exact ⟨budget_of_le le8, budget_of_le le16, budget_of_le le32, budget_of_ge (Nat.le_trans (by decide) ge64),
    limitBits_of_le le8, limitBits_of_le le16, limitBits_of_le le32, limitBits_of_ge ge64⟩

end Sys2Proof.Machine
end

section
/-! The wire format in arithmetic (R92, R95): the length and the bytes of a frame by recursion on the 7-bit groups of
the value, and the two loops of ENCODE (R123, R125) as that recursion. -/

namespace Sys2Proof.Machine

/-! ### The length of a frame -/

theorem bitLength_le_iff (v m : Nat) : bitLength v ≤ m ↔ v < 2 ^ m := by
  unfold bitLength
  split
  · simp_all
  · rename_i hv
    exact Nat.log2_lt hv

/-- A frame has at least one byte, and `n` bytes hold exactly the values of `7 n` bits. -/
theorem frameLength_le_iff (v n : Nat) : frameLength v ≤ n ↔ 1 ≤ n ∧ v < 2 ^ (7 * n) := by
  rw [← bitLength_le_iff]
  unfold frameLength
  omega

theorem frameLength_pos (v : Nat) : 0 < frameLength v := by
  have h := frameLength_le_iff v 0
  omega

/-- A value has length `n + 1` when it fits `n + 1` groups and, beyond one byte, does not fit `n`. -/
theorem frameLength_eq_succ {v n : Nat} (hlt : v < 2 ^ (7 * (n + 1))) (hge : n = 0 ∨ 2 ^ (7 * n) ≤ v) :
    frameLength v = n + 1 := by
  have hle := (frameLength_le_iff v (n + 1)).2 ⟨by omega, hlt⟩
  have hpos := frameLength_pos v
  have hn := frameLength_le_iff v n
  omega

theorem frameLength_of_lt {v : Nat} (h : v < 128) : frameLength v = 1 :=
  frameLength_eq_succ (n := 0) (by simpa using h) (.inl rfl)

theorem two_pow_seven_mul_succ (n : Nat) : 2 ^ (7 * (n + 1)) = 128 * 2 ^ (7 * n) := by
  rw [Nat.mul_succ, Nat.pow_add, Nat.mul_comm]

theorem frameLength_of_ge {v : Nat} (h : 128 ≤ v) : frameLength v = frameLength (v / 128) + 1 := by
  refine eq_of_forall_ge_iff fun c => ?_
  cases c with
  | zero => simp [(frameLength_pos v).ne']
  | succ c =>
    rw [Nat.add_le_add_iff_right, frameLength_le_iff, frameLength_le_iff, two_pow_seven_mul_succ,
      Nat.div_lt_iff_lt_mul (by decide)]
    cases c with
    | zero => omega
    | succ c => omega

/-! ### The bytes of a frame -/

theorem frameByte_of_lt {v : Nat} (h : v < 128) : frameByte v 0 = BitVec.ofNat 8 v := by
  simp [frameByte, frameLength_of_lt h, groupAt, Nat.mod_eq_of_lt h]

theorem frameByte_zero_of_ge {v : Nat} (h : 128 ≤ v) : frameByte v 0 = BitVec.ofNat 8 (128 + v % 128) := by
  have hpos := frameLength_pos (v / 128)
  simp [frameByte, frameLength_of_ge h, groupAt, hpos]

theorem frameByte_succ_of_ge {v : Nat} (h : 128 ≤ v) (k : Nat) : frameByte v (k + 1) = frameByte (v / 128) k := by
  have hgroup : groupAt v (k + 1) = groupAt (v / 128) k := by
    rw [groupAt, groupAt, two_pow_seven_mul_succ, Nat.div_div_eq_div_mul]
  simp [frameByte, frameLength_of_ge h, hgroup]

theorem frameOf_of_lt {v : Nat} (h : v < 128) : frameOf v = [BitVec.ofNat 8 v] := by
  simp [frameOf, frameLength_of_lt h, frameByte_of_lt h]

theorem frameOf_of_ge {v : Nat} (h : 128 ≤ v) :
    frameOf v = BitVec.ofNat 8 (128 + v % 128) :: frameOf (v / 128) := by
  simp [frameOf, frameLength_of_ge h, List.range_succ_eq_map, frameByte_zero_of_ge h, frameByte_succ_of_ge h,
    Function.comp_def]

theorem length_frameOf (v : Nat) : (frameOf v).length = frameLength v := by
  simp [frameOf]

/-! ### ENCODE's loops -/

theorem shiftRight_groupBits_toNat (t : DWord) : (t >>> Config.groupBits).toNat = t.toNat / 128 := by
  rw [BitVec.toNat_ushiftRight, Nat.shiftRight_eq_div_pow]
  rfl

theorem shiftRight_groupBits_eq_zero (t : DWord) : t >>> Config.groupBits = 0#64 ↔ t.toNat < 128 := by
  rw [← BitVec.toNat_inj, shiftRight_groupBits_toNat, BitVec.toNat_ofNat]
  omega

theorem neededLoop_eq_frameLength {fuel : Nat} {t : DWord} (hlen : frameLength t.toNat ≤ fuel) :
    neededLoop fuel t = frameLength t.toNat := by
  induction fuel generalizing t with
  | zero => exact absurd (frameLength_pos t.toNat) (by omega)
  | succ fuel ih =>
    unfold neededLoop
    by_cases hlt : t.toNat < 128
    · rw [if_pos ((shiftRight_groupBits_eq_zero t).2 hlt), frameLength_of_lt hlt]
    · have hge := frameLength_of_ge (Nat.le_of_not_lt hlt)
      rw [if_neg (mt (shiftRight_groupBits_eq_zero t).1 hlt), ih, shiftRight_groupBits_toNat, hge]
      rw [shiftRight_groupBits_toNat]
      omega

/-- R92: the shift loop counts the bytes of the frame. -/
theorem needed_eq_frameLength (v : DWord) : needed v = frameLength v.toNat := by
  refine neededLoop_eq_frameLength ((frameLength_le_iff _ _).2 ⟨by decide, ?_⟩)
  exact Nat.lt_of_lt_of_le v.isLt (Nat.pow_le_pow_right (by decide) (by decide))

/-- The byte of the group at the bottom of the working copy (R125). -/
theorem wireByte_eq (t : DWord) :
    wireByte (t >>> Config.groupBits != 0#64) (t.extractLsb' 0 7) =
      BitVec.ofNat 8 ((if t.toNat < 128 then 0 else 128) + t.toNat % 128) := by
  apply BitVec.eq_of_toNat_eq
  have hcont : (t >>> Config.groupBits != 0#64) = !decide (t.toNat < 128) := by
    simp only [bne, beq_eq_decide, shiftRight_groupBits_eq_zero]
  rw [wireByte_toNat, hcont]
  by_cases hlt : t.toNat < 128
  · simp [hlt]
    omega
  · simp [hlt]
    omega

theorem emit_eq_frameOf {n : Nat} {t : DWord} (hn : frameLength t.toNat = n) : emit n t = frameOf t.toNat := by
  induction n generalizing t with
  | zero => exact absurd (frameLength_pos t.toNat) (by omega)
  | succ n ih =>
    unfold emit
    rw [wireByte_eq]
    by_cases hlt : t.toNat < 128
    · obtain rfl : n = 0 := by
        have := frameLength_of_lt hlt
        omega
      simp [frameOf_of_lt hlt, hlt, emit, Nat.mod_eq_of_lt hlt]
    · have hge := Nat.le_of_not_lt hlt
      have hrest : frameLength (t >>> Config.groupBits).toNat = n := by
        rw [shiftRight_groupBits_toNat]
        have := frameLength_of_ge hge
        omega
      rw [ih hrest, frameOf_of_ge hge, shiftRight_groupBits_toNat, if_neg hlt]

/-- R95: the emission loop writes the frame. -/
theorem emit_needed_eq_frameOf (v : DWord) : emit (needed v) v = frameOf v.toNat :=
  emit_eq_frameOf (needed_eq_frameLength v).symm

/-! ### The frame in OUT_BUF -/

theorem frameBuf_getElem (f : List Byte) (k : Nat) (h : k < 9) : (frameBuf f)[k] = f[k]? := by
  match k with
  | 0 | 1 | 2 | 3 | 4 | 5 | 6 | 7 | 8 => rfl

theorem frameBuf_frameOf (v : Nat) : frameBuf (frameOf v) = outBufOf v := by
  ext1 k hk
  rw [frameBuf_getElem, outBufOf, Vector.getElem_ofFn, frameOf, List.getElem?_map]
  by_cases hlt : k < frameLength v
  · simp [hlt]
  · simp [hlt]

end Sys2Proof.Machine
end

section
/-! DECODE's scan: what it does at a byte it reads and where it stops, the bytes it reads (R31, R153, R155), and what a
scan that ends Ok has found (R144, R145, R151). -/

namespace Sys2Proof.Machine

/-! ### The scan, byte by byte -/

theorem scan_of_not_read {B L i : Nat} (h : ¬ (i < L ∧ i < B)) (limit : Nat) (bs : List Byte) (shift : Nat)
    (value : DWord) : scan B limit L bs i shift value = exhausted B L := by
  cases bs with
  | nil => rfl
  | cons b rest => exact if_pos h

/-- What the scan does at a byte that it reads. -/
theorem scan_of_read {B L i : Nat} (hL : i < L) (hB : i < B) (limit : Nat) (b : Byte) (rest : List Byte)
    (shift : Nat) (value : DWord) :
    scan B limit L (b :: rest) i shift value =
      if limit ≤ shift then .raised .overflow
      else if limit - shift < 7 ∧ chunkOf b >>> (limit - shift) ≠ 0#7 then .raised .overflow
      else if contOf b then
        scan B limit L rest (i + 1) (shift + Config.groupBits) (value ||| ((chunkOf b).setWidth 64 <<< shift))
      else if i > 0 ∧ b = 0x00#8 then .raised .notMinimal
      else .decoded (value ||| ((chunkOf b).setWidth 64 <<< shift)) (i + 1) :=
  if_neg (not_not_intro ⟨hL, hB⟩)

theorem budget_le_nine (W : Nat) : budget W ≤ 9 :=
  Nat.min_le_left ..

/-! ### The bytes that DECODE reads -/

theorem exhausted_congr {B L L' : Nat} (hmin : min L B = min L' B) : exhausted B L = exhausted B L' := by
  have hlt : L < B ↔ L' < B := by omega
  simp only [exhausted, hlt]

/-- Two scans that stop at the same bound and meet the same bytes below it end alike. -/
theorem scan_congr {B L L' : Nat} (hmin : min L B = min L' B) (limit : Nat) {bs bs' : List Byte} {i : Nat}
    (hlen : bs.length = bs'.length) (hbytes : ∀ k, i + k < min L B → bs[k]? = bs'[k]?) (shift : Nat) (value : DWord) :
    scan B limit L bs i shift value = scan B limit L' bs' i shift value := by
  induction bs generalizing bs' i shift value with
  | nil =>
    obtain rfl : bs' = [] := List.length_eq_zero_iff.1 hlen.symm
    exact exhausted_congr hmin
  | cons b rest ih =>
    cases bs' with
    | nil => cases hlen
    | cons b' rest' =>
      by_cases hread : i < L ∧ i < B
      · obtain ⟨hL, hB⟩ := hread
        obtain rfl : b = b' := Option.some.inj (hbytes 0 (by omega))
        have hrest : ∀ k, i + 1 + k < min L B → rest[k]? = rest'[k]? := fun k hk => hbytes (k + 1) (by omega)
        rw [scan_of_read hL hB, scan_of_read (by omega) hB, ih (Nat.succ.inj hlen) hrest]
      · rw [scan_of_not_read hread, scan_of_not_read (by omega), exhausted_congr hmin]

/-- R153: DECODE depends on no byte at or beyond `min L (budget W)`, and on `L` through that bound only. -/
theorem decodeOp_congr {W : Nat} {b b' : Vector Byte 9} {L L' : Word}
    (hmin : min L.toNat (budget W) = min L'.toNat (budget W))
    (hbytes : ∀ k (h : k < 9), k < min L.toNat (budget W) → b[k] = b'[k]) : decodeOp W b L = decodeOp W b' L' := by
  refine scan_congr hmin _ (by simp) (fun k hk => ?_) _ _
  have hk' : k < min L.toNat (budget W) := by omega
  have h9 : k < 9 := by
    have := budget_le_nine W
    omega
  simp [h9, hbytes k h9 hk']

/-- R155: one byte offered, with its continuation bit set, is one byte too few wherever the budget has two. -/
theorem decodeOp_one_continuation_byte {W : Nat} (hbudget : 2 ≤ budget W) (hlimit : 7 ≤ limitBits W)
    {b : Vector Byte 9} (hcont : contOf b[0] = true) : decodeOp W b 1#32 = .raised .bufferTooSmall := by
  have hb : b.toList = b[0] :: b.toList.drop 1 := by
    simpa using List.drop_eq_getElem_cons (l := b.toList) (i := 0) (by simp)
  have hL : 0 < (1#32).toNat := by decide
  have hstop : ¬ (0 + 1 < (1#32).toNat ∧ 0 + 1 < budget W) := by simp
  rw [decodeOp, hb, scan_of_read hL (by omega), if_neg (by omega), if_neg (by omega), if_pos hcont,
    scan_of_not_read hstop, exhausted, if_pos (by simp; omega)]

/-- Settles O26, from the agreement of two scans and the scan of one continuation byte. -/
theorem decodeReadsOnlyTheOfferedBytes : Obligations.DecodeReadsOnlyTheOfferedBytes := by
  refine ⟨fun W b b' L L' => decodeOp_congr, fun w b hb => decodeOp_one_continuation_byte ?_ ?_ ?_⟩
  · cases w <;> decide
  · cases w <;> decide
  · rw [hb]
    decide

/-! ### The value that DECODE returns -/

/-- Accumulating a payload above the bits gathered so far is addition. -/
theorem or_chunk_toNat {i : Nat} (hi : i < 9) {value : DWord} (hv : value.toNat < 2 ^ (7 * i)) (c : BitVec 7) :
    (value ||| (c.setWidth 64 <<< (7 * i))).toNat = c.toNat * 2 ^ (7 * i) + value.toNat := by
  have hc : c.toNat * 2 ^ (7 * i) < 2 ^ 64 := by
    calc c.toNat * 2 ^ (7 * i) < 2 ^ 7 * 2 ^ (7 * i) := (Nat.mul_lt_mul_right (by positivity)).2 c.isLt
      _ = 2 ^ (7 + 7 * i) := (Nat.pow_add ..).symm
      _ ≤ 2 ^ 64 := Nat.pow_le_pow_right (by decide) (by omega)
  have hshift : (c.setWidth 64 <<< (7 * i)).toNat = c.toNat <<< (7 * i) := by
    rw [BitVec.toNat_shiftLeft, BitVec.toNat_setWidth_of_le (by decide), Nat.shiftLeft_eq, Nat.mod_eq_of_lt hc]
  rw [BitVec.toNat_or, hshift, Nat.or_comm, ← Nat.shiftLeft_add_eq_or_of_lt hv, Nat.shiftLeft_eq]

/-- A terminal byte other than 0 has a payload other than 0. -/
theorem chunkOf_pos_of_terminal {b : Byte} (hcont : contOf b = false) (hb : b ≠ 0x00#8) : 0 < (chunkOf b).toNat := by
  have hlt : b.toNat < 128 := by simpa [contOf_eq] using hcont
  have hne : b.toNat ≠ 0 := fun h => hb (BitVec.eq_of_toNat_eq h)
  rw [chunkOf_toNat]
  omega

/-- A scan that has gathered `7 i` bits in its first `i` bytes and ends Ok after `n` bytes in all has found a value
below 2^63 whose frame has `n` bytes. -/
theorem scan_decoded {B L limit : Nat} (hB : B ≤ 9) {bs : List Byte} {i : Nat} {value v : DWord} {n : Nat}
    (hv : value.toNat < 2 ^ (7 * i)) (hscan : scan B limit L bs i (7 * i) value = .decoded v n) :
    v.toNat < 2 ^ 63 ∧ n = frameLength v.toNat := by
  induction bs generalizing i value with
  | nil => rcases exhausted_cases B L with ⟨_, h⟩ | ⟨_, h⟩ <;> simp [scan, h] at hscan
  | cons b rest ih =>
    by_cases hread : i < L ∧ i < B
    · obtain ⟨hiL, hiB⟩ := hread
      have hsum := or_chunk_toNat (by omega) hv (chunkOf b)
      have hnext : (value ||| ((chunkOf b).setWidth 64 <<< (7 * i))).toNat < 2 ^ (7 * (i + 1)) := by
        rw [hsum, two_pow_seven_mul_succ]
        calc (chunkOf b).toNat * 2 ^ (7 * i) + value.toNat
          _ < (chunkOf b).toNat * 2 ^ (7 * i) + 2 ^ (7 * i) := Nat.add_lt_add_left hv _
          _ = ((chunkOf b).toNat + 1) * 2 ^ (7 * i) := (Nat.succ_mul ..).symm
          _ ≤ 128 * 2 ^ (7 * i) := Nat.mul_le_mul_right _ (chunkOf b).isLt
      rw [scan_of_read hiL hiB] at hscan
      split_ifs at hscan with hover hrange hcont hzero
      · exact ih hnext hscan
      · obtain ⟨rfl, rfl⟩ := OpEnd.decoded.inj hscan
        refine ⟨hnext.trans_le (Nat.pow_le_pow_right (by decide) (by omega)), (frameLength_eq_succ hnext ?_).symm⟩
        refine (Nat.eq_zero_or_pos i).imp_right fun hpos => ?_
        have hchunk := chunkOf_pos_of_terminal (by simpa using hcont) fun hb => hzero ⟨hpos, hb⟩
        rw [hsum]
        exact (Nat.le_mul_of_pos_left _ hchunk).trans (Nat.le_add_right ..)
    · rw [scan_of_not_read hread] at hscan
      rcases exhausted_cases B L with ⟨_, h⟩ | ⟨_, h⟩ <;> simp [h] at hscan

theorem decodeOp_decoded {W : Nat} {b : Vector Byte 9} {L : Word} {v : DWord} {n : Nat}
    (h : decodeOp W b L = .decoded v n) : v.toNat < 2 ^ 63 ∧ n = frameLength v.toNat :=
  scan_decoded (i := 0) (budget_le_nine W) (by decide) h

end Sys2Proof.Machine
end

section
/-! Reads of the register window as numbers, and what an RW register reads back after a write (R24 to R35, R63, R64). -/

namespace Sys2Proof.Machine

/-! ### The halves of the value ports -/

theorem extractLsb'_low_toNat (v : DWord) : (v.extractLsb' 0 32).toNat = v.toNat % 2 ^ 32 := by
  rw [BitVec.extractLsb'_toNat, Nat.shiftRight_zero]

theorem extractLsb'_high_toNat (v : DWord) : (v.extractLsb' 32 32).toNat = v.toNat / 2 ^ 32 := by
  rw [BitVec.extractLsb'_toNat, Nat.shiftRight_eq_div_pow, Nat.mod_eq_of_lt (by omega)]

theorem extractLsb'_low_append (hi lo : Word) : (hi ++ lo : DWord).extractLsb' 0 32 = lo := by
  apply BitVec.eq_of_toNat_eq
  rw [extractLsb'_low_toNat, append_toNat]
  omega

theorem extractLsb'_high_append (hi lo : Word) : (hi ++ lo : DWord).extractLsb' 32 32 = hi := by
  apply BitVec.eq_of_toNat_eq
  rw [extractLsb'_high_toNat, append_toNat]
  omega

/-! ### Byte lanes -/

theorem laneWord_lanes (v : Word) : laneWord (lane 0 v) (lane 1 v) (lane 2 v) (lane 3 v) = v := by
  apply BitVec.eq_of_toNat_eq
  simp only [laneWord_toNat, lane_toNat]
  omega

theorem laneWord_single_toNat (b : Byte) : (laneWord b 0#8 0#8 0#8).toNat = b.toNat := by
  simp [laneWord_toNat]

theorem laneWord_lane_zero (v : Word) : laneWord (lane 0 v) 0#8 0#8 0#8 = v &&& 0xFF#32 := by
  apply BitVec.eq_of_toNat_eq
  have hmask : (v &&& 0xFF#32).toNat = v.toNat % 2 ^ 8 := by
    rw [BitVec.toNat_and]
    exact Nat.and_two_pow_sub_one_eq_mod _ 8
  rw [laneWord_single_toNat, lane_toNat, hmask]
  simp

theorem lane_eq_ofNat (k : Nat) (v : Word) : lane k v = BitVec.ofNat 8 (v.toNat / 2 ^ (8 * k)) := by
  apply BitVec.eq_of_toNat_eq
  rw [lane_toNat, BitVec.toNat_ofNat]

/-! ### Reads -/

theorem readReg_outLen_toNat (s : State) (d : Word) :
    (s.readReg d .outLen).toNat = (s.outLen.getD (d.extractLsb' 0 4)).toNat := by
  rw [State.readReg, append_toNat]
  simp

/-- Settles O37: every one of these reads puts fields side by side, whose number is a sum. -/
theorem operandAndStatusReads : Obligations.OperandAndStatusReads := fun s _ =>
  ⟨rfl, rfl, statusWord_toNat s, extractLsb'_low_toNat _, extractLsb'_high_toNat _, rfl, rfl,
    laneWord_toNat .., laneWord_toNat .., laneWord_single_toNat _⟩

/-- Settles O38: the bytes `b` are what the read draws, and each register puts them or its one field in place. -/
theorem resultRegisterReads : Obligations.ResultRegisterReads := by
  intro s d b hb
  obtain rfl : b = fun k => drawnByte d (k.val % 4) s.outBuf[k.val] := funext fun k => by
    rw [hb k.val k.isLt, drawnByte, lane_eq_ofNat]
  refine ⟨laneWord_toNat .., laneWord_toNat .., laneWord_single_toNat _,
    fun n hn => ?_, fun hn => ?_, fun v hv => ?_, fun hv => ?_⟩
  · rw [readReg_outLen_toNat, hn]
    rfl
  · rw [readReg_outLen_toNat, hn]
    simp
  · simp only [State.readReg, hv]
    exact ⟨extractLsb'_low_toNat v, extractLsb'_high_toNat v⟩
  · simp [State.readReg, hv]

/-! ### Writes -/

/-- Settles O39, register by register. -/
theorem operandReadsBackAsWritten : Obligations.OperandReadsBackAsWritten := by
  intro s v d r hrw
  cases r with
  | valueInLo => exact extractLsb'_low_append ..
  | valueInHi => exact extractLsb'_high_append ..
  | outCap => rfl
  | inLen => rfl
  | inBuf0 => simpa [State.storeReg, State.readReg] using laneWord_lanes v
  | inBuf1 => simpa [State.storeReg, State.readReg] using laneWord_lanes v
  | inBuf2 => simpa [State.storeReg, State.readReg] using laneWord_lane_zero v
  | cmd | status | outBuf0 | outBuf1 | outBuf2 | outLen | valueOutLo | valueOutHi | reserved => cases hrw

end Sys2Proof.Machine
end

section
/-! A CMD write that comes next runs the instruction of its word (R24, R160), read from the word or from the bytes of a
row of the opcode table. -/

namespace Sys2Proof.Machine

/-! ### Laying out a word in bytes and reading it back -/

theorem length_layBytes (n w : Nat) : (layBytes n w).length = n := by
  induction n generalizing w with
  | zero => rfl
  | succ n ih => simp [layBytes, ih]

theorem decodeBytes_overlong {l : List Byte} (h : 4 < l.length) : decodeBytes l = .error .overlong := by
  match l with
  | _ :: _ :: _ :: _ :: _ :: _ => rfl
  | [] | [_] | [_, _] | [_, _, _] | [_, _, _, _] => simp at h

theorem decodeBytes_layBytes_four (w : Nat) : decodeBytes (layBytes 4 w) = .ok (decodeWord (BitVec.ofNat 32 w)) := by
  have hword : wordOfBytes (BitVec.ofNat 8 w) (BitVec.ofNat 8 (w >>> 8)) (BitVec.ofNat 8 (w >>> 8 >>> 8))
      (BitVec.ofNat 8 (w >>> 8 >>> 8 >>> 8)) = BitVec.ofNat 32 w := by
    apply BitVec.eq_of_toNat_eq
    simp only [wordOfBytes_toNat, BitVec.toNat_ofNat, Nat.shiftRight_eq_div_pow]
    omega
  simp only [layBytes, decodeBytes, hword]

/-- A row that decodes is no longer than a command word, and it decodes as its word does. -/
theorem decodeWord_fetchWord {nbits w : Nat} {i : Instr} (h : decodeTableWord nbits w = some i) :
    decodeWord (fetchWord nbits w) = i := by
  unfold decodeTableWord at h
  by_cases hlen : 4 < max 4 ((nbits + 7) / 8)
  · rw [decodeBytes_overlong (by rwa [length_layBytes])] at h
    cases h
  · rw [show max 4 ((nbits + 7) / 8) = 4 by omega, decodeBytes_layBytes_four] at h
    exact Option.some.inj h

/-! ### The CMD write -/

theorem dueSnapshot_withFetchWord (s : State) (nbits w : Nat) : (s.withFetchWord nbits w).dueSnapshot = none := by
  simp [State.dueSnapshot, State.blockMovesNext, State.resetNext]

theorem step_cmd_write {s : State} {c : Word} {rest : List BusEvent} (hbus : s.bus = .write 0x00#6 4 c :: rest)
    (hdue : s.dueSnapshot = none) : step s = exec (decodeWord c) (s.afterEvent rest) := by
  have hdef : definedAccess 0x00#6 4 = true := definedAccess_offset .cmd
  have hreg : regAt 0x00#6 = .cmd := regAt_offset .cmd
  rw [step_event hdue hbus, hostEvent, if_pos hdef, hreg, busWrite_cmd]

/-- The write that `withFetchWord` puts first in the queue, taken out again. -/
theorem afterEvent_withFetchWord (s : State) (nbits w : Nat) : (s.withFetchWord nbits w).afterEvent s.bus = s := rfl

/-- Settles O5: a CMD write that comes next runs its word, and a row of the table decodes as its word. -/
theorem stepRunsTheCommandWritten : Obligations.StepRunsTheCommandWritten := by
  refine ⟨fun s nbits w i hi => ?_, fun s c rest hbus hdue => step_cmd_write hbus hdue⟩
  rw [step_cmd_write (State.withFetchWord_bus ..) (dueSnapshot_withFetchWord ..), decodeWord_fetchWord hi,
    afterEvent_withFetchWord]

end Sys2Proof.Machine
end

section
/-! The snapshot of the command in flight is hidden from the host (R40, R167): two busy states that differ in it alone
differ in it alone after the host's next access too, or are equal after a reset. -/

namespace Sys2Proof.Machine

theorem exec_busy (i : Instr) {s : State} (h : s.busy = true) : exec i s = .next s := by
  rcases exec_cases i s with ⟨_, hexec⟩ | ⟨hidle, _⟩ | ⟨hidle, _⟩ | ⟨hidle, _⟩
  · exact hexec
  all_goals exact absurd h (by simp [hidle])

/-- The state with another snapshot in flight. -/
def State.withSnap (s : State) (o : Option Snapshot) : State := { s with snap := o }

theorem withSnap_busy (s : State) (o : Option Snapshot) : (s.withSnap o).busy = s.busy := rfl

theorem withSnap_bus (s : State) (o : Option Snapshot) : (s.withSnap o).bus = s.bus := rfl

theorem afterEvent_withSnap (s : State) (o : Option Snapshot) (rest : List BusEvent) :
    (s.withSnap o).afterEvent rest = (s.afterEvent rest).withSnap o := rfl

theorem readReg_withSnap (s : State) (o : Option Snapshot) (d : Word) (r : Reg) :
    (s.withSnap o).readReg d r = s.readReg d r := by
  cases r <;> rfl

theorem storeReg_withSnap (s : State) (o : Option Snapshot) (v : Word) (r : Reg) :
    (s.withSnap o).storeReg v r = (s.storeReg v r).withSnap o := by
  cases r <;> rfl

theorem busRead_withSnap (s : State) (o : Option Snapshot) (r : Reg) :
    (s.withSnap o).busRead r = (s.busRead r).withSnap o := by
  rw [State.busRead, readReg_withSnap]
  rfl

theorem poll_withSnap (s : State) (o : Option Snapshot) : (s.withSnap o).poll = s.poll.withSnap o := by
  rw [State.poll, State.poll, busRead_withSnap, withSnap_busy]
  split <;> rfl

/-- A snapshot is due or not whatever it holds. -/
theorem dueSnapshot_withSnap {s : State} (hsnap : s.snap.isSome = true) (hdue : s.dueSnapshot = none) (S : Snapshot) :
    (s.withSnap (some S)).dueSnapshot = none := by
  have hnot : ¬ (s.busy && s.blockMovesNext) = true := fun h => by
    rw [State.dueSnapshot, if_pos h] at hdue
    simp [hdue] at hsnap
  exact if_neg hnot

/-- What one event from outside does to a busy block, with another snapshot in flight. -/
theorem hostEvent_withSnap {s t : State} {e : BusEvent} (o : Option Snapshot) (hbusy : s.busy = true)
    (hevent : hostEvent e s = .next t) :
    hostEvent e (s.withSnap o) = .next t ∨ hostEvent e (s.withSnap o) = .next (t.withSnap o) := by
  cases e with
  | read off n =>
    right
    rw [hostEvent] at hevent ⊢
    split at hevent
    · rename_i hdef
      injection hevent with hevent
      rw [if_pos hdef, ← hevent, busRead_withSnap]
    · cases hevent
  | write off n v =>
    right
    rw [hostEvent] at hevent ⊢
    split at hevent
    · rename_i hdef
      rw [if_pos hdef]
      by_cases hreg : regAt off = .cmd
      · rw [hreg, busWrite_cmd, exec_busy _ hbusy] at hevent
        injection hevent with hevent
        rw [hreg, busWrite_cmd, exec_busy _ ((withSnap_busy s o).trans hbusy), ← hevent]
      · rw [busWrite_store hreg] at hevent
        injection hevent with hevent
        rw [busWrite_store hreg, ← hevent, storeReg_withSnap]
    · cases hevent
  | wait =>
    right
    injection hevent with hevent
    rw [hostEvent, ← hevent, poll_withSnap]
  | reset => exact .inl hevent

/-- The host's next access, with another snapshot in flight. -/
theorem step_withSnap {s t : State} (S : Snapshot) (hbusy : s.busy = true) (hdue : s.dueSnapshot = none)
    (hsnap : s.snap.isSome = true) (hstep : step s = .next t) :
    step (s.withSnap (some S)) = .next t ∨ step (s.withSnap (some S)) = .next (t.withSnap (some S)) := by
  have hdue' := dueSnapshot_withSnap hsnap hdue S
  cases hbus : s.bus with
  | nil =>
    right
    rw [step_host hdue, hostTurn, hbus] at hstep
    injection hstep with hstep
    rw [step_host hdue', hostTurn, withSnap_bus, hbus, hstep]
  | cons e rest =>
    rw [step_event hdue hbus] at hstep
    rw [step_event hdue' ((withSnap_bus s _).trans hbus), afterEvent_withSnap]
    exact hostEvent_withSnap (some S) hbusy hstep

/-- Settles O32: after the access the two states are equal or differ in the snapshot alone, which no register reads. -/
theorem hostCannotReadTheSnapshot : Obligations.HostCannotReadTheSnapshot := by
  intro s t S hbusy hdue hsnap hstep
  rcases step_withSnap S hbusy hdue hsnap hstep with h | h
  · exact ⟨t, h, rfl, fun _ _ => rfl⟩
  · exact ⟨_, h, rfl, readReg_withSnap t (some S)⟩

end Sys2Proof.Machine
end

section
/-! The invariant of the block (R28, R29, R32 to R34, R44, R163): what keeps each of its fields, what the end of an
operation may leave behind, and from both that every step keeps it. -/

namespace Sys2Proof.Machine

/-! ### What each kind of step leaves of the invariant -/

/-- The fields of the block that the invariant speaks of. -/
def State.commandFields (s : State) :
    Bool × Bool × ResultCode × Vector (Option Byte) 9 × Option (BitVec 4) × Option DWord × Option Snapshot :=
  (s.busy, s.done, s.result, s.outBuf, s.outLen, s.valueOut, s.snap)

/-- A step that leaves those fields alone and awaits no more host steps than before keeps the invariant. -/
theorem State.Inv.of_commandFields {s t : State} (hs : s.Inv) (hfields : t.commandFields = s.commandFields)
    (hhold : t.hold ≤ s.hold) : t.Inv := by
  cases s
  cases t
  simp only [State.commandFields, Prod.mk.injEq] at hfields
  obtain ⟨rfl, rfl, rfl, rfl, rfl, rfl, rfl⟩ := hfields
  exact { hs with hold_zero_when_idle := fun hidle => Nat.le_zero.1 (hhold.trans_eq (hs.hold_zero_when_idle hidle)) }

theorem State.Inv.afterEvent {s : State} (hs : s.Inv) (rest : List BusEvent) : (s.afterEvent rest).Inv :=
  hs.of_commandFields rfl (Nat.sub_le ..)

theorem State.Inv.busRead {s : State} (hs : s.Inv) (r : Reg) : (s.busRead r).Inv :=
  hs.of_commandFields rfl le_rfl

theorem State.Inv.storeReg {s : State} (hs : s.Inv) (v : Word) (r : Reg) : (s.storeReg v r).Inv :=
  hs.of_commandFields (by simp [commandFields]) (storeReg_hold ..).le

theorem State.Inv.poll {s : State} (hs : s.Inv) : s.poll.Inv :=
  hs.of_commandFields (by simp [commandFields]) (poll_hold s).le

theorem blockReset_inv (s : State) : s.blockReset.Inv where
  snap_iff_busy := rfl
  not_busy_and_done := by simp
  result_ok_since_reset _ _ := rfl
  hold_zero_when_idle _ := rfl
  unspec_until_done _ := ⟨rfl, rfl, rfl⟩
  unspec_after_failure := by simp
  results_after_ok := by simp

/-- Settles O51: the state after reset is a block reset. -/
theorem resetMeetsTheInvariant : Obligations.ResetMeetsTheInvariant :=
  blockReset_inv State.reset

theorem accept_inv (s : State) (op : Op) (w : Width) : (s.accept op w).Inv where
  snap_iff_busy := rfl
  not_busy_and_done := by simp
  result_ok_since_reset := by simp
  hold_zero_when_idle := by simp
  unspec_until_done _ := ⟨rfl, rfl, rfl⟩
  unspec_after_failure := by simp
  results_after_ok := by simp

theorem State.Inv.illegal {s : State} (hs : s.Inv) (hidle : s.busy = false) : s.illegal.Inv where
  snap_iff_busy := hs.snap_iff_busy.trans hidle
  not_busy_and_done := by simp
  result_ok_since_reset := by simp
  hold_zero_when_idle _ := hs.hold_zero_when_idle hidle
  unspec_until_done := by simp
  unspec_after_failure _ _ := ⟨rfl, rfl, rfl⟩
  results_after_ok := by simp

/-! ### What the end of an operation may leave behind -/

/-- An end of an operation as the invariant needs it: a frame or a value of at most 63 bits with the length of its
frame, or a code other than Ok. -/
def OpEnd.Sound : OpEnd → Prop
  | .encoded f => ∃ v, v < 2 ^ 63 ∧ f = frameOf v
  | .decoded v n => v.toNat < 2 ^ 63 ∧ n = frameLength v.toNat
  | .raised c => c ≠ .ok

theorem operandValue_lt {W : Nat} {v : DWord}
    (h : ¬ (W > Config.maxBits ∧ (operandValue W v).toNat ≥ 2 ^ Config.maxBits)) :
    (operandValue W v).toNat < 2 ^ 63 := by
  by_cases hW : W > Config.maxBits
  · exact Nat.lt_of_not_le fun hge => h ⟨hW, hge⟩
  · have hW' : W ≤ 63 := Nat.le_of_not_lt hW
    rw [operandValue_toNat, if_pos (by omega)]
    exact (Nat.mod_lt _ (by positivity)).trans_le (Nat.pow_le_pow_right (by decide) hW')

theorem encodeOp_sound (W : Nat) (v : DWord) (C : Word) : (encodeOp W v C).Sound := by
  rcases encodeOp_cases W v C with h | h | ⟨h, hrange, -, -⟩
  · rw [h]
    exact ResultCode.noConfusion
  · rw [h]
    exact ResultCode.noConfusion
  · rw [h, emit_needed_eq_frameOf]
    exact ⟨_, operandValue_lt hrange, rfl⟩

theorem decodeOp_sound (W : Nat) (b : Vector Byte 9) (L : Word) : (decodeOp W b L).Sound := by
  rcases scan_cases (budget W) (limitBits W) L.toNat b.toList 0 0 0#64 with ⟨c, h, hc⟩ | ⟨v, n, h⟩
  · rw [decodeOp, h]
    rcases hc with rfl | rfl | rfl <;> exact ResultCode.noConfusion
  · have hdec : decodeOp W b L = .decoded v n := h
    rw [hdec]
    exact decodeOp_decoded hdec

theorem runSnapshot_sound (S : Snapshot) : (runSnapshot S).Sound := by
  unfold runSnapshot
  split
  · exact encodeOp_sound ..
  · exact decodeOp_sound ..

/-- The table of R163 leaves the result registers as the invariant says. -/
theorem finish_inv (s : State) {e : OpEnd} (he : e.Sound) : (s.finish e).Inv where
  snap_iff_busy := by simp
  not_busy_and_done := by simp
  result_ok_since_reset := by simp
  hold_zero_when_idle := by simp
  unspec_until_done := by simp
  unspec_after_failure _ hcode := by
    cases e with
    | encoded f => exact absurd rfl hcode
    | decoded v n => exact absurd rfl hcode
    | raised c => exact ⟨rfl, rfl, rfl⟩
  results_after_ok _ hcode := by
    cases e with
    | encoded f =>
      obtain ⟨v, hv, rfl⟩ := he
      refine .inl ⟨v, hv, frameBuf_frameOf v, ?_, rfl⟩
      rw [State.finish_encoded_outLen, length_frameOf]
    | decoded v n =>
      obtain ⟨hv, rfl⟩ := he
      exact .inr ⟨v, hv, rfl, rfl, rfl⟩
    | raised c => exact absurd hcode he

/-! ### Every step -/

theorem exec_inv {s t : State} {i : Instr} (hs : s.Inv) (hexec : exec i s = .next t) : t.Inv := by
  rcases exec_cases i s with ⟨-, h⟩ | ⟨-, w, -, h⟩ | ⟨-, w, -, h⟩ | ⟨hidle, -, h⟩ <;>
    obtain rfl := Host.Outcome.next.inj (h.symm.trans hexec)
  · exact hs
  · exact accept_inv s .encode w
  · exact accept_inv s .decode w
  · exact hs.illegal hidle

/-- Settles O52, by the kinds of step: a completion writes a sound end, a command or a reset sets the flags and the
result registers itself, and any other step leaves them alone. -/
theorem stepKeepsTheInvariant : Obligations.StepKeepsTheInvariant := by
  intro s t hs hstep
  rcases step_cases hstep with ⟨S, -, rfl⟩ | ⟨-, -, rfl⟩ | ⟨-, off, rest, -, -, rfl⟩ |
    ⟨-, off, v, rest, -, -, -, hexec⟩ | ⟨-, off, v, rest, -, -, -, rfl⟩ | ⟨-, rest, -, rfl⟩ | ⟨-, rest, -, rfl⟩
  · exact finish_inv s (runSnapshot_sound S)
  · exact hs
  · exact (hs.afterEvent rest).busRead _
  · exact exec_inv (hs.afterEvent rest) hexec
  · exact (hs.afterEvent rest).storeReg v _
  · exact (hs.afterEvent rest).poll
  · exact blockReset_inv _

end Sys2Proof.Machine
end

section
/-! One host access of the window through `step` (R62, R63, R67): a defined read, a write that no register stores, an
undefined access; and the bus addresses that reach a register (R60, R61). -/

namespace Sys2Proof.Machine

/-! ### Defined accesses -/

theorem step_read {s : State} {r : Reg} {rest : List BusEvent} (hdue : s.dueSnapshot = none)
    (hbus : s.bus = .read r.offset 4 :: rest) : step s = .next ((s.afterEvent rest).busRead r) := by
  rw [step_event hdue hbus, hostEvent, if_pos (definedAccess_offset r), regAt_offset]

/-- A write of any register but CMD, which issues a command, stores or is ignored. -/
theorem step_write_store {s : State} {v : Word} {r : Reg} {rest : List BusEvent} (hcmd : r ≠ .cmd)
    (hdue : s.dueSnapshot = none) (hbus : s.bus = .write r.offset 4 v :: rest) :
    step s = .next ((s.afterEvent rest).storeReg v r) := by
  rw [step_event hdue hbus, hostEvent, if_pos (definedAccess_offset r), regAt_offset, busWrite_store hcmd]

/-- Taking an event out of the queue changes no register. -/
theorem readReg_afterEvent (s : State) (rest : List BusEvent) (d : Word) (r : Reg) :
    (s.afterEvent rest).readReg d r = s.readReg d r := by
  cases r <;> rfl

/-- Settles O36: the step reads the register after taking the read out of the queue, which leaves the word as it was. -/
theorem readHasNoSideEffect : Obligations.ReadHasNoSideEffect := by
  intro s r rest hdue hbus
  rw [step_read hdue hbus, State.busRead, readReg_afterEvent]
  rfl

/-- Settles O41: an RO register or the reserved offset is neither CMD, which is WO, nor a register that stores. -/
theorem readOnlyWriteIgnored : Obligations.ReadOnlyWriteIgnored := by
  intro s v r rest haccess hdue hbus
  have hcmd : r ≠ .cmd := by
    rintro rfl
    exact absurd haccess (by decide)
  have hrw : r.access ≠ .rw := by
    intro hrw
    rw [hrw] at haccess
    exact absurd haccess (by decide)
  rw [step_write_store hcmd hdue hbus, storeReg_ignored hrw]
  rfl

/-! ### Undefined accesses -/

theorem definedAccess_eq_true_iff (off : BitVec 6) (n : Nat) :
    definedAccess off n = true ↔ n = 4 ∧ off.toNat % 4 = 0 := by
  simp [definedAccess]

/-- Settles O42: a read and a write both pass through the check of R62 first. -/
theorem undefinedAccessRefused : Obligations.UndefinedAccessRefused := by
  intro s off n v rest hdue hwrong hbus
  have hundef : ¬ definedAccess off n = true := by
    rw [definedAccess_eq_true_iff]
    omega
  rcases hbus with hread | hwrite
  · rw [step_event hdue hread, hostEvent, if_neg hundef]
  · rw [step_event hdue hwrite, hostEvent, if_neg hundef]

/-! ### Bus addresses -/

/-- The sixteen registers fill the window: each multiple of 4 in it is the offset of one. -/
theorem offset_regAt (off : BitVec 6) : (regAt off).offset = off &&& 0x3C#6 := by
  revert off
  decide

theorem windowOffset_of_mem {a : Nat} (hlo : Config.baseAddr ≤ a) (hhi : a ≤ Config.baseAddr + 0x3F) :
    windowOffset a = some (BitVec.ofNat 6 (a - Config.baseAddr)) :=
  if_pos ⟨hlo, hhi⟩

theorem windowOffset_of_not_mem {a : Nat} (h : a < Config.baseAddr ∨ Config.baseAddr + 0x3F < a) :
    windowOffset a = none :=
  if_neg (by omega)

/-- Settles O43: `memRead` and `memWrite` put an access in the queue exactly where the address has an offset. -/
theorem busAddressReachesItsRegister : Obligations.BusAddressReachesItsRegister := by
  refine ⟨Nat.mul_mod_right .., offset_regAt, fun s a n v hlo hhi => ?_, fun s a n v hout => ?_⟩
  · have hoff := windowOffset_of_mem hlo hhi
    simp only [State.memRead, State.memWrite, hoff, and_self]
  · have hoff := windowOffset_of_not_mem hout
    simp only [State.memRead, State.memWrite, hoff, and_self]

end Sys2Proof.Machine
end

section
/-! The command word (R101 to R104, R107): decoding depends on the fields OP and WSEL alone, a word that software writes
is put together from them, and so decoder and encoder are inverse to each other. -/

namespace Sys2Proof.Machine

/-! ### The fields of a word -/

theorem opField_eq_iff (c : Word) (op : BitVec 2) : opField c = op ↔ c.toNat % 4 = op.toNat := by
  rw [← BitVec.toNat_inj, opField_toNat]

theorem opField_commandWord (wsel op : BitVec 2) : opField (commandWord wsel op) = op := by
  apply BitVec.eq_of_toNat_eq
  rw [opField_toNat, commandWord_toNat]
  omega

theorem wselField_commandWord (wsel op : BitVec 2) : wselField (commandWord wsel op) = wsel := by
  apply BitVec.eq_of_toNat_eq
  rw [wselField_toNat, commandWord_toNat]
  omega

/-- The fields of R102, the reserved ones among them, side by side. -/
theorem append_fields (c : Word) :
    c.extractLsb' 6 26 ++ wselField c ++ c.extractLsb' 2 2 ++ opField c = c := by
  apply BitVec.eq_of_toNat_eq
  simp only [append_toNat, opField_toNat, wselField_toNat, BitVec.extractLsb'_toNat, Nat.shiftRight_eq_div_pow]
  omega

theorem and_append_fields (a a' : BitVec 26) (b b' c c' d d' : BitVec 2) :
    (a ++ b ++ c ++ d : Word) &&& (a' ++ b' ++ c' ++ d' : Word) =
      (a &&& a') ++ (b &&& b') ++ (c &&& c') ++ (d &&& d') := by
  rw [BitVec.and_append, BitVec.and_append, BitVec.and_append]

/-- Clearing the reserved bits leaves the word of the fields. -/
theorem and_mask_eq_commandWord (c : Word) : c &&& 0x33#32 = commandWord (wselField c) (opField c) := by
  have hmask : 0x33#32 = 0#26 ++ 0b11#2 ++ 0#2 ++ 0b11#2 := by decide
  have hones (b : BitVec 2) : b &&& 0b11#2 = b := BitVec.and_allOnes
  conv_lhs => rw [← append_fields c, hmask, and_append_fields, BitVec.and_zero, BitVec.and_zero, hones, hones]
  rfl

theorem canonicalWord_commandWord (wsel op : BitVec 2) : canonicalWord (commandWord wsel op) = true := by
  have hmask : ignoredBits = 0x3FFFFFF#26 ++ 0#2 ++ 0b11#2 ++ 0#2 := by decide
  rw [canonicalWord, commandWord, hmask, and_append_fields]
  simp only [BitVec.zero_and, BitVec.and_zero]
  rfl

theorem commandWord_fields {c : Word} (h : canonicalWord c = true) : commandWord (wselField c) (opField c) = c := by
  have hzero : c &&& ignoredBits = 0#32 := by simpa [canonicalWord] using h
  have hones : 0x33#32 ||| ignoredBits = BitVec.allOnes 32 := by decide
  calc commandWord (wselField c) (opField c)
    _ = (c &&& 0x33#32) ||| (c &&& ignoredBits) := by rw [hzero, BitVec.or_zero, and_mask_eq_commandWord]
    _ = c := by rw [← BitVec.and_or_distrib_left, hones, BitVec.and_allOnes]

/-! ### WSEL and the widths -/

theorem wselMap_wselOf (w : Width) : wselMap (wselOf w) = w := by
  cases w <;> rfl

theorem wselOf_wselMap (b : BitVec 2) : wselOf (wselMap b) = b := by
  revert b
  decide

theorem bits_wselMap (b : BitVec 2) : (wselMap b).bits = 8 * 2 ^ b.toNat := by
  revert b
  decide

/-! ### The decoder, by the OP field -/

theorem decodeWord_of_op_01 {c : Word} (h : opField c = 0b01#2) : decodeWord c = .encode (wselMap (wselField c)) :=
  if_pos h

theorem decodeWord_of_op_10 {c : Word} (h : opField c = 0b10#2) : decodeWord c = .decode (wselMap (wselField c)) := by
  simp [decodeWord, h]

theorem decodeWord_of_op_00 {c : Word} (h : opField c = 0b00#2) : decodeWord c = .illegalOp0 := by
  simp [decodeWord, h]

theorem decodeWord_of_op_11 {c : Word} (h : opField c = 0b11#2) : decodeWord c = .illegalOp3 := by
  simp [decodeWord, h]

/-- R104: the reserved bits play no part. -/
theorem decodeWord_and_mask (c : Word) : decodeWord (c &&& 0x33#32) = decodeWord c := by
  simp only [and_mask_eq_commandWord, decodeWord, opField_commandWord, wselField_commandWord]

/-! ### Decoder and encoder -/

theorem decodeWord_encode (i : Instr) : decodeWord (encode i) = i := by
  cases i with
  | encode w =>
    obtain ⟨hop, hwsel⟩ := Laws.EncodedFields.encode w
    rw [decodeWord_of_op_01 hop, hwsel, wselMap_wselOf]
  | decode w =>
    obtain ⟨hop, hwsel⟩ := Laws.EncodedFields.decode w
    rw [decodeWord_of_op_10 hop, hwsel, wselMap_wselOf]
  | illegalOp0 => exact decodeWord_of_op_00 Laws.EncodedFields.illegalOp0
  | illegalOp3 => exact decodeWord_of_op_11 Laws.EncodedFields.illegalOp3

theorem encode_injective : Function.Injective encode :=
  Function.LeftInverse.injective decodeWord_encode

theorem canonicalWord_encode (i : Instr) : canonicalWord (encode i) = true := by
  cases i <;> exact canonicalWord_commandWord ..

theorem decodeBytes_encodeBytes (i : Instr) : decodeBytes (encodeBytes i) = .ok i := by
  rw [encodeBytes, decodeBytes_layBytes_four, BitVec.ofNat_toNat, BitVec.setWidth_eq, decodeWord_encode]

/-- A word of ENCODE or DECODE as software writes it is the encoding of what it decodes to; of an illegal word the
encoder has lost WSEL. -/
theorem encode_decodeWord {c : Word} (hcanon : canonicalWord c = true)
    (hop : opField c = 0b01#2 ∨ opField c = 0b10#2) : encode (decodeWord c) = c := by
  have hc := commandWord_fields hcanon
  rcases hop with hop | hop
  · rw [decodeWord_of_op_01 hop, encode, wselOf_wselMap, ← hop, hc]
  · rw [decodeWord_of_op_10 hop, encode, wselOf_wselMap, ← hop, hc]

/-- Settles O3: the decoder is a left inverse of the encoder, and a right inverse on the words software writes. -/
theorem decodeAndEncodeAgree : Obligations.DecodeAndEncodeAgree := by
  refine ⟨fun i _ => ⟨decodeBytes_encodeBytes i, decodeWord_encode i, canonicalWord_encode i⟩,
    fun c hcanon hop => encode_decodeWord hcanon ?_, fun c => decodeWord_encode _, fun i j h => encode_injective h⟩
  exact hop.imp (opField_eq_iff c 0b01#2).2 (opField_eq_iff c 0b10#2).2

/-- Settles O1: eight words of the table are encodings, and the OP field of the other eight is reserved. -/
theorem commandTableDecodes : Obligations.CommandTableDecodes :=
  ⟨decodeWord_encode (.encode .w8), decodeWord_encode (.encode .w16), decodeWord_encode (.encode .w32),
    decodeWord_encode (.encode .w64), decodeWord_encode (.decode .w8), decodeWord_encode (.decode .w16),
    decodeWord_encode (.decode .w32), decodeWord_encode (.decode .w64),
    decodeWord_of_op_00 rfl, decodeWord_of_op_00 rfl, decodeWord_of_op_00 rfl, decodeWord_of_op_00 rfl,
    decodeWord_of_op_11 rfl, decodeWord_of_op_11 rfl, decodeWord_of_op_11 rfl, decodeWord_of_op_11 rfl⟩

/-! ### What a word selects -/

/-- R103: the width of a word's WSEL bits. -/
theorem bits_wselMap_wselField (c : Word) : (wselMap (wselField c)).bits = 8 * 2 ^ (c.toNat / 16 % 4) := by
  rw [bits_wselMap, wselField_toNat]

/-- R164: on an idle block an illegal command completes at once. -/
theorem exec_illegal_idle {i : Instr} {s : State} (hi : i = .illegalOp0 ∨ i = .illegalOp3) (hidle : s.busy = false) :
    exec i s = .next s.illegal := by
  rcases hi with rfl | rfl
  · exact whenIdle_idle hidle _
  · exact whenIdle_idle hidle _

/-- Settles O2: the decoder by the four OP values, the width by WSEL, and the illegal command of R164. -/
theorem everyWordSelectsByOpAndWsel : Obligations.EveryWordSelectsByOpAndWsel := by
  intro c
  have h0 (h : c.toNat % 4 = 0) : decodeWord c = .illegalOp0 := decodeWord_of_op_00 ((opField_eq_iff c _).2 h)
  have h3 (h : c.toNat % 4 = 3) : decodeWord c = .illegalOp3 := decodeWord_of_op_11 ((opField_eq_iff c _).2 h)
  refine ⟨(decodeWord_and_mask c).symm, fun h => ?_, fun h => ?_, h0, h3, fun h s hidle => ?_⟩
  · exact ⟨_, decodeWord_of_op_01 ((opField_eq_iff c _).2 h), bits_wselMap_wselField c⟩
  · exact ⟨_, decodeWord_of_op_10 ((opField_eq_iff c _).2 h), bits_wselMap_wselField c⟩
  · exact ⟨s.illegal, exec_illegal_idle (h.imp h0 h3) hidle, rfl, rfl, rfl⟩

/-! ### Byte strings -/

theorem decodeBytes_truncated {l : List Byte} (h : l.length < 4) : decodeBytes l = .error .truncated := by
  match l with
  | [] | [_] | [_, _] | [_, _, _] => rfl
  | _ :: _ :: _ :: _ :: _ =>
    simp only [List.length_cons] at h
    omega

theorem decodeBytes_of_length_four {l : List Byte} (h : l.length = 4) : ∃ i, decodeBytes l = .ok i := by
  match l with
  | [_, _, _, _] => exact ⟨_, rfl⟩
  | [] | [_] | [_, _] | [_, _, _] | _ :: _ :: _ :: _ :: _ :: _ => simp at h

/-- Settles O4: what the decoder answers below, at and above four bytes. -/
theorem onlyFourBytesAreACommand : Obligations.OnlyFourBytesAreACommand := by
  intro l
  rcases Nat.lt_trichotomy l.length 4 with hlt | heq | hgt
  · simp [decodeBytes_truncated hlt, hlt, hlt.ne, hlt.le]
  · obtain ⟨i, hi⟩ := decodeBytes_of_length_four heq
    simp [hi, heq]
  · simp [decodeBytes_overlong hgt, hgt, hgt.ne', hgt.le]

end Sys2Proof.Machine
end

section
/-! R92, R95 and the arithmetic of R93 and R94 as the obligations state them. -/

namespace Sys2Proof.Machine

/-- R92: one group more than the value shifted right by a group, where that is not 0. -/
theorem needed_step (v : DWord) :
    needed v = if v >>> Config.groupBits = 0#64 then 1 else needed (v >>> Config.groupBits) + 1 := by
  simp only [needed_eq_frameLength, shiftRight_groupBits_eq_zero, shiftRight_groupBits_toNat]
  split_ifs with hlt
  · exact frameLength_of_lt hlt
  · exact frameLength_of_ge (Nat.le_of_not_lt hlt)

/-- Settles O9: both counts follow the recursion of the frame's length. -/
theorem neededIsTheFrameLength : Obligations.NeededIsTheFrameLength := fun v =>
  ⟨needed_step v, needed_eq_frameLength v⟩

/-- Settles O10, by the induction on the groups left of the working copy in `emit_eq_frameOf`. -/
theorem emissionWritesTheFrame : Obligations.EmissionWritesTheFrame :=
  emit_needed_eq_frameOf

/-- Settles O19: up to 63 bits the budget is the ceiling of W/7 and the limit W, beyond it they are 9 and 63. -/
theorem budgetIndexTimesSevenBelowBitLimit : Obligations.BudgetIndexTimesSevenBelowBitLimit := by
  intro W i _ hi
  rcases Nat.le_total W 63 with hW | hW
  · rw [budget_of_le hW] at hi
    rw [limitBits_of_le hW]
    omega
  · rw [budget_of_ge (by omega)] at hi
    rw [limitBits_of_ge hW]
    omega

end Sys2Proof.Machine
end

section
/-! WAIT through `step` (R108). -/

namespace Sys2Proof.Machine

/-- One poll as a record update: the read of STATUS, and WAIT again while BUSY = 1. -/
theorem poll_eq (s : State) :
    s.poll = { s with
      bus := if s.busy then .wait :: s.bus else s.bus, fresh := s.fresh + 1,
      replies := s.statusWord :: s.replies } := by
  unfold State.poll
  split <;> rfl

/-- Settles O44: the step is a poll after WAIT is taken out of the queue, which leaves STATUS as it was. -/
theorem waitPollsStatus : Obligations.WaitPollsStatus := by
  intro s rest hdue hbus
  rw [step_event hdue hbus, hostEvent, poll_eq]
  rfl

end Sys2Proof.Machine
end

section
/-! ENCODE's operation in closed form, for every width (R122 to R128): the range check, after which the budget check
never fires, then the capacity check, then the frame. -/

namespace Sys2Proof.Machine

/-! ### The operand and the checks -/

/-- `encodeOp` takes its value through `operandValue` alone. -/
theorem encodeOp_congr {W : Nat} {v v' : DWord} (h : operandValue W v = operandValue W v') (C : Word) :
    encodeOp W v C = encodeOp W v' C := by
  simp only [encodeOp, h]

/-- R105: below W = 64 the operand is the value's low W bits. -/
theorem operandValue_congr {W : Nat} (hW : W < 64) {v v' : DWord} (h : v.toNat % 2 ^ W = v'.toNat % 2 ^ W) :
    operandValue W v = operandValue W v' := by
  apply BitVec.eq_of_toNat_eq
  rw [operandValue_toNat, operandValue_toNat, if_pos hW, if_pos hW, h]

/-- Settles O17: `encodeOp` sees the operand alone, and the operand the low W bits alone. -/
theorem valueBitsAboveTheWidthIgnored : Obligations.ValueBitsAboveTheWidthIgnored :=
  ⟨fun _ _ _ C hW h => encodeOp_congr (operandValue_congr hW h) C,
    fun C => encodeOp_congr (operandValue_congr (by decide) (by decide)) C⟩

/-- A value that passes the range check of R122 is representable. -/
theorem operandValue_lt_limit {W : Nat} {v : DWord} (h : ¬ (W > 63 ∧ (operandValue W v).toNat ≥ 2 ^ 63)) :
    (operandValue W v).toNat < 2 ^ limitBits W := by
  by_cases hW : W ≤ 63
  · rw [limitBits_of_le hW, operandValue_toNat, if_pos (by omega)]
    exact Nat.mod_lt _ (by positivity)
  · rw [limitBits_of_ge (by omega)]
    exact operandValue_lt h

theorem limitBits_le_seven_mul_budget (W : Nat) : limitBits W ≤ 7 * budget W := by
  rcases Nat.le_total W 63 with hW | hW
  · rw [limitBits_of_le hW, budget_of_le hW]
    omega
  · rw [limitBits_of_ge hW, budget_of_ge (by omega)]

theorem budget_pos {W : Nat} (hW : 1 ≤ W) : 1 ≤ budget W := by
  rcases Nat.le_total W 63 with h | h
  · rw [budget_of_le h]
    omega
  · rw [budget_of_ge (by omega)]
    decide

/-- R93, R94: the frame of a representable value is within the budget. -/
theorem frameLength_le_budget {W v : Nat} (hW : 1 ≤ W) (hv : v < 2 ^ limitBits W) : frameLength v ≤ budget W :=
  (frameLength_le_iff v _).2
    ⟨budget_pos hW, hv.trans_le (Nat.pow_le_pow_right (by decide) (limitBits_le_seven_mul_budget W))⟩

/-- Settles O15: what passes the range check is representable. -/
theorem budgetCheckNeverFires : Obligations.BudgetCheckNeverFires := by
  intro W v hW hrange
  rw [needed_eq_frameLength]
  exact frameLength_le_budget hW (operandValue_lt_limit hrange)

/-! ### The operation -/

/-- R120 to R128 in closed form. -/
theorem encodeOp_eq {W : Nat} (hW : 1 ≤ W) (v : DWord) (C : Word) :
    encodeOp W v C =
      if W > 63 ∧ (operandValue W v).toNat ≥ 2 ^ 63 then .raised .overflow
      else if C.toNat < frameLength (operandValue W v).toNat then .raised .bufferTooSmall
      else .encoded (frameOf (operandValue W v).toNat) := by
  by_cases hrange : W > 63 ∧ (operandValue W v).toNat ≥ 2 ^ 63
  · rw [if_pos hrange]
    exact if_pos hrange
  · have hbudget : ¬ needed (operandValue W v) > budget W :=
      Nat.not_lt.2 (budgetCheckNeverFires W v hW hrange)
    rw [if_neg hrange, ← needed_eq_frameLength, ← emit_needed_eq_frameOf]
    exact (if_neg hrange).trans (if_neg hbudget)

/-- Settles O14: in the closed form the capacity stands only against the frame's length, which is between 1 and 9. -/
theorem capacityLaw : Obligations.CapacityLaw := by
  intro W v C hW hrange
  have hpos := frameLength_pos (operandValue W v).toNat
  have hnine := (frameLength_le_budget hW (operandValue_lt_limit hrange)).trans (budget_le_nine W)
  have hend (C : Word) := (encodeOp_eq hW v C).trans (if_neg hrange)
  simp only [hend, needed_eq_frameLength]
  refine ⟨?_, fun hC => ?_, ?_⟩
  · by_cases hC : C.toNat < frameLength (operandValue W v).toNat
    · simp [hC]
    · simp [hC, Nat.le_of_not_lt hC]
  · have hfits : ¬ (9#32).toNat < frameLength (operandValue W v).toNat := Nat.not_lt.2 hnine
    rw [if_neg (by omega), if_neg hfits]
  · rintro rfl
    simp [hpos]

end Sys2Proof.Machine
end

section
/-! ENCODE on the block (R125, R126, R129, R131): the command is accepted, and where its completion comes the end of the
operation in closed form is what the completion leaves. -/

namespace Sys2Proof.Machine

/-! ### From the CMD write to the completion -/

theorem exec_encode_idle {s : State} (hidle : s.busy = false) (w : Width) :
    exec (.encode w) s = .next (s.accept .encode w) :=
  whenIdle_idle hidle _

theorem exec_decode_idle {s : State} (hidle : s.busy = false) (w : Width) :
    exec (.decode w) s = .next (s.accept .decode w) :=
  whenIdle_idle hidle _

/-- R162: the completion of an accepted command, wherever it comes. -/
theorem step_accepted (s : State) (op : Op) (w : Width) {q : List BusEvent} {h : Nat} (hnow : CompletesNow q h) :
    step { s.accept op w with bus := q, hold := h } =
      .next (State.finish { s.accept op w with bus := q, hold := h } (runSnapshot (s.snapshot op w))) :=
  step_due (dueSnapshot_of rfl rfl hnow.1 hnow.2)

/-! ### The end of ENCODE -/

theorem bits_pos (w : Width) : 1 ≤ w.bits := by
  cases w <;> decide

theorem operandValue_bits_toNat (s : State) (w : Width) :
    (operandValue w.bits s.valueIn).toNat = s.encodeValue w := by
  rw [operandValue_toNat, State.encodeValue]
  cases w with
  | w8 | w16 | w32 => rfl
  | w64 => exact (Nat.mod_eq_of_lt s.valueIn.isLt).symm

theorem runSnapshot_encode (s : State) (w : Width) :
    runSnapshot (s.snapshot .encode w) =
      if w.bits > 63 ∧ s.encodeValue w ≥ 2 ^ 63 then .raised .overflow
      else if s.outCap.toNat < frameLength (s.encodeValue w) then .raised .bufferTooSmall
      else .encoded (frameOf (s.encodeValue w)) := by
  rw [← operandValue_bits_toNat]
  exact encodeOp_eq (bits_pos w) s.valueIn s.outCap

/-- R129 with R132: a value out of range is one of 64 bits with bit 63 set. -/
theorem encodeValue_out_of_range_iff (s : State) (w : Width) :
    (w.bits > 63 ∧ s.encodeValue w ≥ 2 ^ 63) ↔ (w = .w64 ∧ s.valueIn.getLsbD 63 = true) := by
  cases w with
  | w8 | w16 | w32 => simp [Width.bits]
  | w64 =>
    have hmsb : s.valueIn.getLsbD 63 = decide (2 ^ 63 ≤ s.valueIn.toNat) :=
      (BitVec.msb_eq_getLsbD_last _).symm.trans (BitVec.msb_eq_decide _)
    rw [← operandValue_bits_toNat, hmsb, decide_eq_true_iff]
    exact and_congr_left fun _ => iff_of_true (by decide) rfl

/-- Settles O11, by the three ends of the operation. -/
theorem encodeEndsWithTheCodeOfItsOperands : Obligations.EncodeEndsWithTheCodeOfItsOperands := by
  intro s w hidle
  refine ⟨_, exec_encode_idle hidle w, fun q h hnow => ⟨_, step_accepted s .encode w hnow, ?_⟩⟩
  rw [← encodeValue_out_of_range_iff, State.finish_busy, State.finish_done, State.finish_result, runSnapshot_encode]
  by_cases hrange : w.bits > 63 ∧ s.encodeValue w ≥ 2 ^ 63
  · rw [if_pos hrange]
    exact ⟨rfl, rfl, iff_of_true rfl hrange, iff_of_true rfl hrange, iff_of_false nofun fun h => h.1 rfl,
      iff_of_false nofun fun h => h.1 rfl⟩
  · rw [if_neg hrange]
    by_cases hcap : s.outCap.toNat < frameLength (s.encodeValue w)
    · rw [if_pos hcap]
      exact ⟨rfl, rfl, iff_of_false nofun hrange, iff_of_false nofun hrange, iff_of_true rfl ⟨nofun, hcap⟩,
        iff_of_false nofun fun h => Nat.not_le.2 hcap h.2⟩
    · rw [if_neg hcap]
      exact ⟨rfl, rfl, iff_of_false nofun hrange, iff_of_false nofun hrange, iff_of_false nofun fun h => hcap h.2,
        iff_of_true rfl ⟨nofun, Nat.not_lt.1 hcap⟩⟩

/-- R163: what a frame leaves in the block. -/
theorem finish_encoded_frameOf (s : State) (v : Nat) :
    s.finish (.encoded (frameOf v)) = { s with
      busy := false, done := true, result := .ok,
      outBuf := outBufOf v, outLen := some (BitVec.ofNat 4 (frameLength v)),
      valueOut := none, snap := none, hold := 0 } := by
  rw [← frameBuf_frameOf, ← length_frameOf]
  rfl

/-- Settles O12: the operation ends with the frame. -/
theorem encodeLeavesTheFrame : Obligations.EncodeLeavesTheFrame := by
  intro s w hidle hrange hcap
  refine ⟨_, exec_encode_idle hidle w, fun q h hnow => ⟨0, s.fresh + 1, ?_⟩⟩
  rw [step_accepted s .encode w hnow, runSnapshot_encode, if_neg hrange, if_neg (Nat.not_lt.2 hcap),
    finish_encoded_frameOf]
  rfl

/-- Settles O13: the operation raises one of its two codes. -/
theorem encodeFailureLeavesNoOutput : Obligations.EncodeFailureLeavesNoOutput := by
  intro s w hidle hfail
  refine ⟨_, exec_encode_idle hidle w, fun q h hnow => ⟨0, s.fresh + 1, ?_⟩⟩
  rw [step_accepted s .encode w hnow, runSnapshot_encode]
  by_cases hrange : w.bits > 63 ∧ s.encodeValue w ≥ 2 ^ 63
  · rw [if_pos hrange, if_pos hrange]
    rfl
  · rw [if_neg hrange, if_neg hrange, if_pos (hfail.resolve_left hrange)]
    rfl

end Sys2Proof.Machine
end

section
/-! DECODE of a canonical frame (R143 to R146), and with it the round trip on the block (R133). -/

namespace Sys2Proof.Machine

/-! ### The scan of a frame -/

/-- At a byte within the input and the budget whose payload is in range, the continuation bit decides, then the
minimality test. -/
theorem scan_of_chunk_in_range {W L i : Nat} (hW : 1 ≤ W) (hL : i < L) (hB : i < budget W) {b : Byte}
    (hrange : (chunkOf b).toNat * 2 ^ (7 * i) < 2 ^ limitBits W) (rest : List Byte) (value : DWord) :
    scan (budget W) (limitBits W) L (b :: rest) i (7 * i) value =
      if contOf b then
        scan (budget W) (limitBits W) L rest (i + 1) (7 * (i + 1)) (value ||| ((chunkOf b).setWidth 64 <<< (7 * i)))
      else if i > 0 ∧ b = 0x00#8 then .raised .notMinimal
      else .decoded (value ||| ((chunkOf b).setWidth 64 <<< (7 * i))) (i + 1) := by
  have hshift : 7 * i < limitBits W := budgetIndexTimesSevenBelowBitLimit W i hW hB
  have hchunk : chunkOf b >>> (limitBits W - 7 * i) = 0#7 := by
    rw [← Nat.sub_add_cancel hshift.le, Nat.pow_add, Nat.mul_lt_mul_right (by positivity)] at hrange
    apply BitVec.eq_of_toNat_eq
    rw [BitVec.toNat_ushiftRight, Nat.shiftRight_eq_div_pow, Nat.div_eq_of_lt hrange]
    rfl
  rw [scan_of_read hL hB, if_neg (Nat.not_le.2 hshift), if_neg fun h => h.2 hchunk]
  rfl

/-- The bits gathered once a payload is accumulated. -/
theorem or_chunk_lt {i : Nat} (hi : i < 9) {value : DWord} (hv : value.toNat < 2 ^ (7 * i)) (c : BitVec 7) :
    (value ||| (c.setWidth 64 <<< (7 * i))).toNat < 2 ^ (7 * (i + 1)) := by
  rw [or_chunk_toNat hi hv, two_pow_seven_mul_succ]
  calc c.toNat * 2 ^ (7 * i) + value.toNat
    _ < c.toNat * 2 ^ (7 * i) + 2 ^ (7 * i) := Nat.add_lt_add_left hv _
    _ = (c.toNat + 1) * 2 ^ (7 * i) := (Nat.succ_mul ..).symm
    _ ≤ 128 * 2 ^ (7 * i) := Nat.mul_le_mul_right _ c.isLt

theorem chunkOf_ofNat_toNat (m : Nat) : (chunkOf (BitVec.ofNat 8 m)).toNat = m % 128 := by
  rw [chunkOf_toNat, BitVec.toNat_ofNat]
  omega

theorem contOf_ofNat (m : Nat) : contOf (BitVec.ofNat 8 m) = decide (128 ≤ m % 256) := by
  rw [contOf_eq, BitVec.toNat_ofNat]

/-- The group at the bottom of what is left of a value below the bit limit is in range. -/
theorem bottom_group_in_range {r p m limit : Nat} (h : r * p + m < limit) : r % 128 * p < limit := by
  have hle : r % 128 * p ≤ r * p := Nat.mul_le_mul_right _ (Nat.mod_le ..)
  omega

/-- Taking the group at the bottom of what is left of a value, `7 i` bits being gathered, leaves the value as it is. -/
theorem rest_add_bottom_group (r i m : Nat) :
    r / 128 * 2 ^ (7 * (i + 1)) + (r % 128 * 2 ^ (7 * i) + m) = r * 2 ^ (7 * i) + m := by
  rw [two_pow_seven_mul_succ, ← Nat.add_assoc, ← Nat.mul_assoc, ← Nat.add_mul, Nat.div_add_mod']

/-- A scan that has gathered `7 i` bits of `v` in its first `i` bytes and comes to the frame of the rest `r` of `v` ends
with `v`. -/
theorem scan_frameOf {W L : Nat} (hW : 1 ≤ W) {v : DWord} (hv : v.toNat < 2 ^ limitBits W) {bs : List Byte}
    {r i : Nat} {value : DWord} (hbs : frameOf r <+: bs) (hbound : i + frameLength r ≤ min L (budget W))
    (hvalue : value.toNat < 2 ^ (7 * i)) (hsum : r * 2 ^ (7 * i) + value.toNat = v.toNat) (hrest : i = 0 ∨ 0 < r) :
    scan (budget W) (limitBits W) L bs i (7 * i) value = .decoded v (i + frameLength r) := by
  induction bs generalizing r i value with
  | nil =>
    have hlen := hbs.length_le
    rw [length_frameOf] at hlen
    exact absurd (frameLength_pos r) (Nat.not_lt.2 hlen)
  | cons b rest ih =>
    have hpos := frameLength_pos r
    have hL : i < L := by omega
    have hB : i < budget W := by omega
    have hi : i < 9 := hB.trans_le (budget_le_nine W)
    have hrange := bottom_group_in_range (hsum.trans_lt hv)
    have hnext := or_chunk_toNat hi hvalue (chunkOf b)
    by_cases hlt : r < 128
    · rw [frameOf_of_lt hlt, List.cons_prefix_cons] at hbs
      obtain ⟨rfl, -⟩ := hbs
      have hchunk := chunkOf_ofNat_toNat r
      have hterminal : ¬ contOf (BitVec.ofNat 8 r) = true := by
        rw [contOf_ofNat, decide_eq_true_iff]
        omega
      have hnonzero : ¬ (i > 0 ∧ BitVec.ofNat 8 r = 0x00#8) := by
        rintro ⟨hipos, hzero⟩
        rw [hzero] at hchunk
        have : 0 = r % 128 := hchunk
        omega
      rw [hchunk, Nat.mod_eq_of_lt hlt, hsum] at hnext
      rw [← hchunk] at hrange
      rw [scan_of_chunk_in_range hW hL hB hrange, if_neg hterminal, if_neg hnonzero, BitVec.eq_of_toNat_eq hnext,
        frameLength_of_lt hlt]
    · have hge := Nat.le_of_not_lt hlt
      rw [frameOf_of_ge hge, List.cons_prefix_cons] at hbs
      obtain ⟨rfl, hbs⟩ := hbs
      have hchunk : (chunkOf (BitVec.ofNat 8 (128 + r % 128))).toNat = r % 128 := by
        rw [chunkOf_ofNat_toNat]
        omega
      have hcont : contOf (BitVec.ofNat 8 (128 + r % 128)) = true := by
        rw [contOf_ofNat, decide_eq_true_iff]
        omega
      have hlen := frameLength_of_ge hge
      rw [← rest_add_bottom_group, ← hchunk, ← hnext] at hsum
      rw [← hchunk] at hrange
      rw [scan_of_chunk_in_range hW hL hB hrange, if_pos hcont,
        ih hbs (by omega) (or_chunk_lt hi hvalue _) hsum (.inr (Nat.div_pos hge (by decide))), hlen,
        Nat.add_right_comm, Nat.add_assoc]

/-! ### The frame in IN_BUF -/

theorem frameOf_prefix_toList {v : Nat} (hlen : frameLength v ≤ 9) {b : Vector Byte 9}
    (hb : ∀ k (h : k < 9), k < frameLength v → b[k] = frameByte v k) : frameOf v <+: b.toList := by
  rw [List.prefix_iff_getElem]
  refine ⟨by simpa [length_frameOf] using hlen, fun k hk => ?_⟩
  have hk' : k < frameLength v := by rwa [length_frameOf] at hk
  simpa [frameOf] using (hb k (hk'.trans_le hlen) hk').symm

/-- A canonical frame of a representable value within the input decodes to the value and its length. -/
theorem decodeOp_frameOf {W : Nat} (hW : 1 ≤ W) {v : DWord} (hv : v.toNat < 2 ^ limitBits W) {b : Vector Byte 9}
    {L : Word} (hL : frameLength v.toNat ≤ L.toNat)
    (hb : ∀ k (h : k < 9), k < frameLength v.toNat → b[k] = frameByte v.toNat k) :
    decodeOp W b L = .decoded v (frameLength v.toNat) := by
  have hbudget := frameLength_le_budget hW hv
  have hscan := scan_frameOf (L := L.toNat) (i := 0) (value := 0#64) hW hv
    (frameOf_prefix_toList (hbudget.trans (budget_le_nine W)) hb) (by omega) (by decide) (by simp) (.inl rfl)
  rwa [Nat.zero_add] at hscan

/-! ### The round trip -/

theorem outBufOf_getElem {v k : Nat} (h : k < 9) (hk : k < frameLength v) :
    (outBufOf v)[k] = some (frameByte v k) := by
  simp [outBufOf, hk]

/-- What an ENCODE that ends Ok has found: a representable value, whose frame it leaves. -/
theorem runSnapshot_encode_ok {s : State} {w : Width} (hok : (runSnapshot (s.snapshot .encode w)).code = .ok) :
    runSnapshot (s.snapshot .encode w) = .encoded (frameOf (s.encodeValue w)) ∧
      s.encodeValue w < 2 ^ limitBits w.bits := by
  rw [runSnapshot_encode] at hok ⊢
  split_ifs at hok with hrange hcap
  · cases hok
  · cases hok
  · rw [if_neg hrange, if_neg hcap]
    rw [← operandValue_bits_toNat] at hrange ⊢
    exact ⟨rfl, operandValue_lt_limit hrange⟩

/-- Settles O29: the ENCODE has left the frame of a representable value, and such a frame decodes to its value. -/
theorem decodeOfEncodeReturnsTheValue : Obligations.DecodeOfEncodeReturnsTheValue := by
  intro w s t u d q h n hidle hexec hnow hstep hok hlen hn hidle' hL hbytes
  obtain rfl := Host.Outcome.next.inj ((exec_encode_idle hidle w).symm.trans hexec)
  obtain rfl := Host.Outcome.next.inj ((step_accepted s .encode w hnow).symm.trans hstep)
  rw [State.finish_result] at hok
  obtain ⟨hrun, hv⟩ := runSnapshot_encode_ok hok
  obtain ⟨v, hval⟩ : ∃ v : DWord, s.encodeValue w = v.toNat := ⟨_, (operandValue_bits_toNat s w).symm⟩
  rw [hrun, finish_encoded_frameOf] at hlen hbytes ⊢
  rw [hval] at hv hlen hbytes ⊢
  have hnine := (frameLength_le_budget (bits_pos w) hv).trans (budget_le_nine _)
  obtain rfl : frameLength v.toNat = n := by
    have hcount : frameLength v.toNat % 16 = n % 16 := congrArg BitVec.toNat (Option.some.inj hlen)
    omega
  have hframe (k : Nat) (h : k < 9) (hk : k < frameLength v.toNat) : d.inBuf[k] = frameByte v.toNat k :=
    Option.some.inj ((hbytes k h hk).symm.trans (outBufOf_getElem h hk))
  have hdecode : runSnapshot (d.snapshot .decode w) = .decoded v (frameLength v.toNat) :=
    decodeOp_frameOf (bits_pos w) hv hL hframe
  refine ⟨_, exec_decode_idle hidle' w, fun q h hnow => ⟨_, step_accepted d .decode w hnow, ?_⟩⟩
  rw [hdecode, BitVec.ofNat_toNat, BitVec.setWidth_eq]
  exact ⟨rfl, rfl, rfl⟩

end Sys2Proof.Machine
end

section
/-! DECODE's verdict (R143, R147 to R151): the chunk-range test in arithmetic, the scan over continuation bytes, and the
frame that a scan that ends Ok has read. -/

namespace Sys2Proof.Machine

/-! ### The chunk-range test -/

/-- The bits of a payload at and above position `r` are those of a payload of at least `2^r`. -/
theorem chunkOf_shiftRight_ne_zero_iff (b : Byte) (r : Nat) : chunkOf b >>> r ≠ 0#7 ↔ 2 ^ r ≤ (chunkOf b).toNat := by
  have hquot : (chunkOf b >>> r).toNat = (chunkOf b).toNat / 2 ^ r := by
    rw [BitVec.toNat_ushiftRight, Nat.shiftRight_eq_div_pow]
  have hpow : 2 ^ r ≠ 0 := by positivity
  rw [← BitVec.toNat_inj.ne, hquot, BitVec.toNat_ofNat, Nat.zero_mod, Nat.div_ne_zero_iff]
  exact and_iff_right hpow

theorem chunkOf_lt (b : Byte) : (chunkOf b).toNat < 128 :=
  (chunkOf b).isLt

/-- A payload beyond the bit limit is refused: by the shift-limit test or by the chunk-range test. -/
theorem scan_of_chunk_out_of_range {B limit L i : Nat} (hL : i < L) (hB : i < B) {b : Byte}
    (hrange : 2 ^ limit ≤ (chunkOf b).toNat * 2 ^ (7 * i)) (rest : List Byte) (value : DWord) :
    scan B limit L (b :: rest) i (7 * i) value = .raised .overflow := by
  rw [scan_of_read hL hB]
  by_cases hshift : limit ≤ 7 * i
  · exact if_pos hshift
  · have hchunk : 2 ^ (limit - 7 * i) ≤ (chunkOf b).toNat := by
      rwa [← Nat.sub_add_cancel (Nat.le_of_not_le hshift), Nat.pow_add, Nat.mul_le_mul_right_iff (by positivity)]
        at hrange
    have hfew : limit - 7 * i < 7 :=
      (Nat.pow_lt_pow_iff_right (by decide)).1 (hchunk.trans_lt (chunkOf_lt b))
    rw [if_neg hshift, if_pos ⟨hfew, (chunkOf_shiftRight_ne_zero_iff ..).2 hchunk⟩]

/-- R149: before the last budget byte every payload is in range. -/
theorem chunk_in_range_before_last {W i : Nat} (hW : 1 ≤ W) (hi : i + 1 < budget W) (b : Byte) :
    (chunkOf b).toNat * 2 ^ (7 * i) < 2 ^ limitBits W :=
  calc (chunkOf b).toNat * 2 ^ (7 * i)
    _ < 128 * 2 ^ (7 * i) := (Nat.mul_lt_mul_right (by positivity)).2 (chunkOf_lt b)
    _ = 2 ^ (7 * (i + 1)) := (two_pow_seven_mul_succ i).symm
    _ ≤ 2 ^ limitBits W :=
      Nat.pow_le_pow_right (by decide) (budgetIndexTimesSevenBelowBitLimit W (i + 1) hW hi).le

/-- Settles O53: by the arithmetic of budget and limit the shift-limit test fails, and the other tests are those of the
byte as a number. -/
theorem scanNeverStopsAtTheShiftLimit : Obligations.ScanNeverStopsAtTheShiftLimit := by
  refine fun W hW => ⟨fun b L => rfl, fun L i b rest value hL hB => ?_⟩
  have hshift := budgetIndexTimesSevenBelowBitLimit W i hW hB
  have hpayload : (chunkOf b).setWidth 64 = BitVec.ofNat 64 (b.toNat % 128) := by
    rw [← chunkOf_toNat, BitVec.ofNat_toNat]
  have hzero : b = 0x00#8 ↔ b.toNat = 0 := BitVec.toNat_inj.symm
  refine ⟨hshift, ?_⟩
  rw [scan_of_read hL hB, if_neg (Nat.not_le.2 hshift)]
  simp only [chunkOf_shiftRight_ne_zero_iff, chunkOf_toNat, contOf_eq, decide_eq_true_iff, hpayload, hzero]
  rfl

/-! ### The scan over continuation bytes -/

theorem drop_toList {i : Nat} (hi : i < 9) (b : Vector Byte 9) : b.toList.drop i = b[i] :: b.toList.drop (i + 1) := by
  rw [List.drop_eq_getElem_cons (by simpa using hi), Vector.getElem_toList]

/-- Over continuation bytes with payloads in range DECODE comes to the byte after them. -/
theorem decodeOp_of_continuation {W : Nat} (hW : 1 ≤ W) {b : Vector Byte 9} {L : Word} {m : Nat}
    (hm : m ≤ min L.toNat (budget W)) (hcont : ∀ k (h : k < 9), k < m → b[k].toNat ≥ 128)
    (hrange : ∀ k (h : k < 9), k < m → (chunkOf b[k]).toNat * 2 ^ (7 * k) < 2 ^ limitBits W) :
    ∃ value, decodeOp W b L = scan (budget W) (limitBits W) L.toNat (b.toList.drop m) m (7 * m) value := by
  induction m with
  | zero => exact ⟨0#64, rfl⟩
  | succ m ih =>
    obtain ⟨value, hscan⟩ := ih (by omega) (fun k h hk => hcont k h (by omega)) fun k h hk => hrange k h (by omega)
    have h9 : m < 9 := by
      have := budget_le_nine W
      omega
    have hcontm : contOf b[m] = true := by
      rw [contOf_eq, decide_eq_true_iff]
      exact hcont m h9 m.lt_succ_self
    rw [hscan, drop_toList h9, scan_of_chunk_in_range hW (by omega) (by omega) (hrange m h9 m.lt_succ_self),
      if_pos hcontm]
    exact ⟨_, rfl⟩

/-- R149: continuation bytes before a byte within the budget have payloads in range, so DECODE comes to that byte. -/
theorem decodeOp_reaches_byte {W : Nat} (hW : 1 ≤ W) {b : Vector Byte 9} {L : Word} {i : Nat} (hi : i < 9)
    (hbound : i < min L.toNat (budget W)) (hcont : ∀ k (h : k < 9), k < i → b[k].toNat ≥ 128) :
    ∃ value, decodeOp W b L =
      scan (budget W) (limitBits W) L.toNat (b[i] :: b.toList.drop (i + 1)) i (7 * i) value := by
  rw [← drop_toList hi]
  exact decodeOp_of_continuation hW hbound.le hcont fun k _ hk => chunk_in_range_before_last hW (by omega) _

/-- Settles O23: the scan comes to its bound, and what is left is the comparison of `L` with the budget. -/
theorem decodeExhaustedByLength : Obligations.DecodeExhaustedByLength := by
  intro W b L hW hbytes
  obtain ⟨value, hscan⟩ := decodeOp_of_continuation hW (le_refl (min L.toNat (budget W)))
    (fun k h hk => (hbytes k h hk).1) fun k h hk => by
      rw [chunkOf_toNat]
      exact (hbytes k h hk).2
  rw [hscan, scan_of_not_read (by omega), exhausted, apply_ite OpEnd.raised]

/-- Settles O24: DECODE comes to the last budget byte, and its payload is refused before its continuation bit is
looked at. -/
theorem decodeOverflowAtTheLastBudgetByte : Obligations.DecodeOverflowAtTheLastBudgetByte := by
  intro W b L i hi hW hlast hL hcont hpayload
  obtain ⟨value, hscan⟩ := decodeOp_reaches_byte (L := L) hW hi (by omega) hcont
  have hrange : 2 ^ limitBits W ≤ (chunkOf b[i]).toNat * 2 ^ (7 * i) := by
    rw [chunkOf_toNat]
    calc 2 ^ limitBits W
      _ ≤ 2 ^ (limitBits W - 7 * i + 7 * i) := Nat.pow_le_pow_right (by decide) le_tsub_add
      _ = 2 ^ (limitBits W - 7 * i) * 2 ^ (7 * i) := Nat.pow_add ..
      _ ≤ b[i].toNat % 128 * 2 ^ (7 * i) := Nat.mul_le_mul_right _ hpayload
  rw [hscan, scan_of_chunk_out_of_range hL (by omega) hrange]

/-- Settles O25: DECODE comes to the byte, whose payload 0 is in range, and the minimality test decides; a first byte
0x00 is the frame of 0. -/
theorem decodeRejectsTrailingZeroByte : Obligations.DecodeRejectsTrailingZeroByte := by
  refine fun W b L hW => ⟨fun i hi hpos hbound hcont hzero => ?_, fun hzero hL => ?_⟩
  · obtain ⟨value, hscan⟩ := decodeOp_reaches_byte hW hi hbound hcont
    have hrange : (chunkOf 0x00#8).toNat * 2 ^ (7 * i) < 2 ^ limitBits W := by
      have hpayload : (chunkOf 0x00#8).toNat = 0 := by decide
      rw [hpayload, Nat.zero_mul]
      positivity
    rw [hscan, hzero, scan_of_chunk_in_range hW (by omega) (by omega) hrange, if_neg (by decide), if_pos ⟨hpos, rfl⟩]
  · have hframe : ∀ k (h : k < 9), k < frameLength (0#64).toNat → b[k] = frameByte (0#64).toNat k := by
      intro k h hk
      obtain rfl : k = 0 := Nat.lt_one_iff.1 hk
      exact hzero
    exact decodeOp_frameOf hW (v := 0#64) (by simp) hL hframe

/-- Two offered bytes 0x80 have the payload 0, so the budget alone decides. -/
theorem decodeOp_two_empty_continuation_bytes {W : Nat} (hW : 1 ≤ W) {b : Vector Byte 9} (h0 : b[0] = 0x80#8)
    (h1 : b[1] = 0x80#8) :
    decodeOp W b 2#32 = .raised (if 2 < budget W then .bufferTooSmall else .overflow) := by
  refine decodeExhaustedByLength W b 2#32 hW fun k h hk => ?_
  have htwo : k < 2 := hk.trans_le (Nat.min_le_left ..)
  have hbk : b[k] = 0x80#8 := by
    obtain rfl | rfl : k = 0 ∨ k = 1 := by omega
    · exact h0
    · exact h1
  simp [hbk]

/-- Nine continuation bytes fill the budget, whether the payload of the last budget byte is in range or not. -/
theorem decodeOp_nine_continuation_bytes {W : Nat} (hW : 1 ≤ W) {b : Vector Byte 9}
    (hcont : ∀ k (h : k < 9), b[k].toNat ≥ 128) : decodeOp W b 9#32 = .raised .overflow := by
  have hpos := budget_pos hW
  have hnine := budget_le_nine W
  obtain ⟨i, hlast⟩ : ∃ i, i + 1 = budget W := ⟨budget W - 1, by omega⟩
  have hi : i < 9 := by omega
  by_cases hpayload : b[i].toNat % 128 ≥ 2 ^ (limitBits W - 7 * i)
  · exact decodeOverflowAtTheLastBudgetByte W b 9#32 i hi hW hlast hi (fun k h _ => hcont k h) hpayload
  · have hfull : ¬ (9#32).toNat < budget W := Nat.not_lt.2 hnine
    rw [decodeExhaustedByLength W b 9#32 hW fun k h hk => ⟨hcont k h, ?_⟩, if_neg hfull]
    rcases Nat.lt_or_ge (k + 1) (budget W) with hbefore | hafter
    · rw [← chunkOf_toNat]
      exact chunk_in_range_before_last hW hbefore _
    · obtain rfl : k = i := by omega
      have hshift := budgetIndexTimesSevenBelowBitLimit W k hW (by omega)
      rw [← Nat.sub_add_cancel hshift.le, Nat.pow_add]
      exact (Nat.mul_lt_mul_right (by positivity)).2 (Nat.lt_of_not_le hpayload)

/-- Settles O28: the budget is 2 at W = 8 and 3 at W = 16, and at most 9 at every width. -/
theorem verdictDependsOnTheWidth : Obligations.VerdictDependsOnTheWidth :=
  ⟨fun _ h0 h1 => ⟨decodeOp_two_empty_continuation_bytes (by decide) h0 h1,
      decodeOp_two_empty_continuation_bytes (by decide) h0 h1⟩,
    fun _ _ hW hcont => decodeOp_nine_continuation_bytes hW hcont⟩

/-! ### What a scan that ends Ok has read -/

theorem exhausted_ne_decoded {B L : Nat} {v : DWord} {n : Nat} : exhausted B L ≠ .decoded v n := by
  rcases exhausted_cases B L with ⟨_, h⟩ | ⟨_, h⟩ <;> simp [h]

/-- The scan ends Ok only from a byte it reads whose payload is in range: further on where that is a continuation byte,
else there, and the byte is then no trailing 0. -/
theorem scan_decoded_cons {W L i : Nat} (hW : 1 ≤ W) {b : Byte} {rest : List Byte} {value v : DWord} {n : Nat}
    (hscan : scan (budget W) (limitBits W) L (b :: rest) i (7 * i) value = .decoded v n) :
    i < L ∧ i < budget W ∧ (chunkOf b).toNat * 2 ^ (7 * i) < 2 ^ limitBits W ∧
      ((contOf b = true ∧ scan (budget W) (limitBits W) L rest (i + 1) (7 * (i + 1))
          (value ||| ((chunkOf b).setWidth 64 <<< (7 * i))) = .decoded v n) ∨
        (contOf b = false ∧ (i = 0 ∨ 0 < (chunkOf b).toNat) ∧
          v = value ||| ((chunkOf b).setWidth 64 <<< (7 * i)) ∧ n = i + 1)) := by
  by_cases hread : i < L ∧ i < budget W
  · obtain ⟨hL, hB⟩ := hread
    rcases Nat.lt_or_ge ((chunkOf b).toNat * 2 ^ (7 * i)) (2 ^ limitBits W) with hrange | hrange
    · refine ⟨hL, hB, hrange, ?_⟩
      rw [scan_of_chunk_in_range hW hL hB hrange] at hscan
      split_ifs at hscan with hcont hzero
      · exact .inl ⟨hcont, hscan⟩
      · have hterminal : contOf b = false := by simpa using hcont
        obtain ⟨rfl, rfl⟩ := OpEnd.decoded.inj hscan
        refine .inr ⟨hterminal, (Nat.eq_zero_or_pos i).imp_right fun hpos => ?_, rfl, rfl⟩
        exact chunkOf_pos_of_terminal hterminal fun hb => hzero ⟨hpos, hb⟩
    · rw [scan_of_chunk_out_of_range hL hB hrange] at hscan
      cases hscan
  · rw [scan_of_not_read hread] at hscan
    exact absurd hscan exhausted_ne_decoded

/-- R144, R154: the bounds of the value and of the count where a scan with `7 i` bits gathered ends Ok. -/
theorem scan_decoded_bounds {W L : Nat} (hW : 1 ≤ W) {bs : List Byte} {i : Nat} {value v : DWord} {n : Nat}
    (hvalue : value.toNat < 2 ^ (7 * i))
    (hscan : scan (budget W) (limitBits W) L bs i (7 * i) value = .decoded v n) :
    v.toNat < 2 ^ limitBits W ∧ n ≤ min L (budget W) := by
  induction bs generalizing i value with
  | nil => exact absurd hscan exhausted_ne_decoded
  | cons b rest ih =>
    obtain ⟨hL, hB, hrange, hend⟩ := scan_decoded_cons hW hscan
    have hi : i < 9 := hB.trans_le (budget_le_nine W)
    rcases hend with ⟨-, hrest⟩ | ⟨-, -, rfl, rfl⟩
    · exact ih (or_chunk_lt hi hvalue _) hrest
    · have hshift := budgetIndexTimesSevenBelowBitLimit W i hW hB
      refine ⟨?_, by omega⟩
      rw [← Nat.sub_add_cancel hshift.le, Nat.pow_add] at hrange ⊢
      rw [or_chunk_toNat hi hvalue]
      calc (chunkOf b).toNat * 2 ^ (7 * i) + value.toNat
        _ < (chunkOf b).toNat * 2 ^ (7 * i) + 2 ^ (7 * i) := Nat.add_lt_add_left hvalue _
        _ = ((chunkOf b).toNat + 1) * 2 ^ (7 * i) := (Nat.succ_mul ..).symm
        _ ≤ 2 ^ (limitBits W - 7 * i) * 2 ^ (7 * i) :=
          Nat.mul_le_mul_right _ (Nat.lt_of_mul_lt_mul_right hrange)

theorem ofNat_chunkOf_of_terminal {b : Byte} (hterminal : contOf b = false) :
    BitVec.ofNat 8 (chunkOf b).toNat = b := by
  have hlt : b.toNat < 128 := by simpa [contOf_eq] using hterminal
  rw [chunkOf_toNat, Nat.mod_eq_of_lt hlt, BitVec.ofNat_toNat, BitVec.setWidth_eq]

theorem ofNat_chunkOf_of_continuation {b : Byte} (hcont : contOf b = true) :
    BitVec.ofNat 8 (128 + (chunkOf b).toNat) = b := by
  have hge : 128 ≤ b.toNat := by simpa [contOf_eq] using hcont
  have hlt : b.toNat < 256 := b.isLt
  have hsum : 128 + b.toNat % 128 = b.toNat := by omega
  rw [chunkOf_toNat, hsum, BitVec.ofNat_toNat, BitVec.setWidth_eq]

/-- The bytes that a scan with `7 i` bits gathered has read when it ends Ok with `v` are the frame of what is left of
`v` above those bits; beyond byte 0 something is left. -/
theorem scan_decoded_frame {W L : Nat} (hW : 1 ≤ W) {bs : List Byte} {i : Nat} {value v : DWord} {n : Nat}
    (hvalue : value.toNat < 2 ^ (7 * i))
    (hscan : scan (budget W) (limitBits W) L bs i (7 * i) value = .decoded v n) :
    ∃ r, frameOf r <+: bs ∧ v.toNat = r * 2 ^ (7 * i) + value.toNat ∧ (i = 0 ∨ 0 < r) := by
  induction bs generalizing i value with
  | nil => exact absurd hscan exhausted_ne_decoded
  | cons b rest ih =>
    obtain ⟨-, hB, -, hend⟩ := scan_decoded_cons hW hscan
    have hi : i < 9 := hB.trans_le (budget_le_nine W)
    have hlt := chunkOf_lt b
    have hnext := or_chunk_toNat hi hvalue (chunkOf b)
    rcases hend with ⟨hcont, hrest⟩ | ⟨hterminal, hminimal, rfl, rfl⟩
    · obtain ⟨r, hprefix, hsum, hleft⟩ := ih (or_chunk_lt hi hvalue _) hrest
      have hr : 0 < r := hleft.resolve_left i.succ_ne_zero
      have hdiv : (128 * r + (chunkOf b).toNat) / 128 = r := by omega
      have hmod : (128 * r + (chunkOf b).toNat) % 128 = (chunkOf b).toNat := by omega
      refine ⟨128 * r + (chunkOf b).toNat, ?_, ?_, .inr (by omega)⟩
      · rw [frameOf_of_ge (by omega), hdiv, hmod, ofNat_chunkOf_of_continuation hcont]
        exact List.cons_prefix_cons.2 ⟨rfl, hprefix⟩
      · rw [hsum, hnext, ← rest_add_bottom_group (128 * r + (chunkOf b).toNat), hdiv, hmod]
    · refine ⟨(chunkOf b).toNat, ?_, hnext, hminimal⟩
      rw [frameOf_of_lt hlt, ofNat_chunkOf_of_terminal hterminal]
      exact List.cons_prefix_cons.2 ⟨rfl, List.nil_prefix⟩

theorem getElem_of_frameOf_prefix {v : Nat} {b : Vector Byte 9} (hprefix : frameOf v <+: b.toList) {k : Nat}
    (h : k < 9) (hk : k < frameLength v) : b[k] = frameByte v k := by
  have hget := (List.prefix_iff_getElem.1 hprefix).2 k (by rwa [length_frameOf])
  simpa [frameOf] using hget.symm

/-- Settles O20: the bytes of a scan that ends Ok are the frame of its value, and the frame of a representable value
within the input decodes to it. -/
theorem decodeAcceptsExactlyCanonicalFrames : Obligations.DecodeAcceptsExactlyCanonicalFrames := by
  intro W b L v n hW
  constructor
  · intro hdecode
    obtain ⟨-, rfl⟩ := decodeOp_decoded hdecode
    obtain ⟨hlimit, hcount⟩ := scan_decoded_bounds (i := 0) hW (by decide) hdecode
    obtain ⟨r, hprefix, hsum, -⟩ := scan_decoded_frame (i := 0) hW (by decide) hdecode
    obtain rfl : v.toNat = r := by simpa using hsum
    exact ⟨rfl, fun k h hk => getElem_of_frameOf_prefix hprefix h hk, hlimit, hcount⟩
  · rintro ⟨rfl, hbytes, hlimit, hcount⟩
    exact decodeOp_frameOf hW hlimit (hcount.trans (Nat.min_le_left ..)) hbytes

theorem decodeOp_width_zero (b : Vector Byte 9) (L : Word) : decodeOp 0 b L = .raised .overflow :=
  scan_of_not_read (fun h => absurd h.2 (by decide)) ..

/-- Settles O27, from the frame that DECODE has read; at width 0 it never ends Ok. -/
theorem decodedValueAndCountBounds : Obligations.DecodedValueAndCountBounds := by
  intro W b L v n hdecode
  rcases Nat.eq_zero_or_pos W with rfl | hW
  · rw [decodeOp_width_zero] at hdecode
    cases hdecode
  · obtain ⟨rfl, -, hlimit, hcount⟩ := (decodeAcceptsExactlyCanonicalFrames W b L v n hW).1 hdecode
    obtain ⟨hpos, hgroups⟩ := (frameLength_le_iff v.toNat _).1 le_rfl
    exact ⟨hlimit, hgroups, hpos, hcount⟩

end Sys2Proof.Machine
end

section
/-! DECODE on the block (R146, R152): the command is accepted, and its completion leaves the value or nothing. -/

namespace Sys2Proof.Machine

/-- Settles O21: the operation ends with the value of the frame. -/
theorem decodeLeavesTheValue : Obligations.DecodeLeavesTheValue := by
  intro s w v hidle hlimit hL hbytes
  have hdecode : runSnapshot (s.snapshot .decode w) = .decoded v (frameLength v.toNat) :=
    decodeOp_frameOf (bits_pos w) hlimit hL hbytes
  refine ⟨_, exec_decode_idle hidle w, fun q h hnow => ⟨0, s.fresh + 1, ?_⟩⟩
  rw [step_accepted s .decode w hnow, hdecode]
  rfl

/-- Settles O22: a scan that does not end Ok raises one of DECODE's three codes. -/
theorem decodeFailureLeavesNoOutput : Obligations.DecodeFailureLeavesNoOutput := by
  intro s w hidle hfail
  obtain ⟨code, hdecode, hcode⟩ := (scan_cases ..).resolve_right hfail
  have hrun : runSnapshot (s.snapshot .decode w) = .raised code := hdecode
  refine ⟨_, code, exec_decode_idle hidle w, hcode, hdecode, fun q h hnow => ⟨0, s.fresh + 1, ?_⟩⟩
  rw [step_accepted s .decode w hnow, hrun]
  rfl

end Sys2Proof.Machine
end

section
/-! A CMD write by its OP field and BUSY (R160, R161, R164). -/

namespace Sys2Proof.Machine

/-- Settles O7: a busy block turns every instruction away. -/
theorem commandWhileBusyChangesNothing : Obligations.CommandWhileBusyChangesNothing :=
  fun _ c hbusy => exec_busy (decodeWord c) hbusy

/-- Settles O6: by the OP field the word is an ENCODE or a DECODE, which an idle block accepts. -/
theorem acceptedCommandTakesSnapshot : Obligations.AcceptedCommandTakesSnapshot := by
  intro s c hidle hop
  refine ⟨wselMap (wselField c), Config.latency s.fresh, s.fresh + 1, bits_wselMap_wselField c, ?_⟩
  rcases hop with hop | hop
  · rw [decodeWord_of_op_01 ((opField_eq_iff c _).2 hop), exec_encode_idle hidle, if_pos hop]
    rfl
  · rw [decodeWord_of_op_10 ((opField_eq_iff c _).2 hop), exec_decode_idle hidle, if_neg (by omega)]
    rfl

/-- R104: a word with a reserved OP is one of the two illegal commands. -/
theorem decodeWord_of_reserved_op {c : Word} (hop : c.toNat % 4 = 0 ∨ c.toNat % 4 = 3) :
    decodeWord c = .illegalOp0 ∨ decodeWord c = .illegalOp3 :=
  hop.imp (fun h => decodeWord_of_op_00 ((opField_eq_iff c _).2 h))
    fun h => decodeWord_of_op_11 ((opField_eq_iff c _).2 h)

/-- R164: STATUS after an illegal command. -/
theorem illegal_statusWord (s : State) : s.illegal.statusWord = 0x00000042#32 := by
  apply BitVec.eq_of_toNat_eq
  rw [statusWord_toNat]
  rfl

/-- Settles O8: the word is one of the two illegal commands, which are one and the same update of an idle block. -/
theorem illegalCommandCompletesAtOnce : Obligations.IllegalCommandCompletesAtOnce := by
  refine fun s c hop => ⟨fun hidle => ⟨s.illegal, rfl, ?_⟩, exec_busy _⟩
  exact ⟨exec_illegal_idle (decodeWord_of_reserved_op hop) hidle, exec_illegal_idle (.inl rfl) hidle,
    exec_illegal_idle (.inr rfl) hidle, illegal_statusWord s⟩

end Sys2Proof.Machine
end

section
/-! Which steps write the flags (R168). -/

namespace Sys2Proof.Machine

/-- R160, R164: a word whose command sets BUSY on an idle block has OP = 01 or 10. -/
theorem op_of_exec_sets_busy {s t : State} {c : Word}
    (hexec : exec (decodeWord c) s = .next t) (hidle : s.busy = false) (hbusy : t.busy = true) :
    c.toNat % 4 = 1 ∨ c.toNat % 4 = 2 := by
  by_contra hop
  have hillegal := exec_illegal_idle (decodeWord_of_reserved_op (c := c) (by omega)) hidle
  obtain rfl := Host.Outcome.next.inj (hillegal.symm.trans hexec)
  simp at hbusy

/-- A step that sets BUSY is a command: a completion and a reset clear it, and the other steps keep it. -/
theorem command_of_step_sets_busy {s t : State} (hstep : step s = .next t) (hidle : s.busy = false)
    (hbusy : t.busy = true) :
    ∃ off c rest, s.bus = .write off 4 c :: rest ∧ regAt off = .cmd ∧ (c.toNat % 4 = 1 ∨ c.toNat % 4 = 2) := by
  rcases step_cases hstep with ⟨S, -, rfl⟩ | ⟨-, -, rfl⟩ | ⟨-, off, rest, -, -, rfl⟩ |
    ⟨-, off, c, rest, hbus, -, hcmd, hexec⟩ | ⟨-, off, c, rest, -, -, -, rfl⟩ | ⟨-, rest, -, rfl⟩ | ⟨-, rest, -, rfl⟩
  case inr.inr.inr.inl => exact ⟨off, c, rest, hbus, hcmd, op_of_exec_sets_busy hexec hidle hbusy⟩
  all_goals simp [hidle] at hbusy

/-- A step that changes DONE or RESULT is a completion, a reset, or a command that the block does not turn away: reads,
stores and polls keep both. -/
theorem cause_of_step_changes_done_or_result {s t : State} (hstep : step s = .next t)
    (hchange : t.done ≠ s.done ∨ t.result ≠ s.result) :
    (∃ S, s.dueSnapshot = some S) ∨ s.bus.head? = some .reset ∨
      (s.busy = false ∧ ∃ e rest, s.bus = e :: rest ∧ e.isCmdWrite = true) := by
  rcases step_cases hstep with ⟨S, hdue, rfl⟩ | ⟨-, -, rfl⟩ | ⟨-, off, rest, -, -, rfl⟩ |
    ⟨-, off, c, rest, hbus, hdef, hcmd, hexec⟩ | ⟨-, off, c, rest, -, -, -, rfl⟩ | ⟨-, rest, -, rfl⟩ |
    ⟨-, rest, hbus, rfl⟩
  case inl => exact .inl ⟨S, hdue⟩
  case inr.inr.inr.inl =>
    cases hs : s.busy with
    | false => exact .inr (.inr ⟨rfl, _, rest, hbus, by simp [BusEvent.isCmdWrite, hdef, hcmd]⟩)
    | true =>
      have hignored := exec_busy (decodeWord c) ((State.afterEvent_busy s rest).trans hs)
      obtain rfl := Host.Outcome.next.inj (hignored.symm.trans hexec)
      simp at hchange
  case inr.inr.inr.inr.inr.inr => exact .inr (.inl (by rw [hbus, List.head?_cons]))
  all_goals simp at hchange

/-- Settles O48, by the kinds of step. -/
theorem onlyCommandsSetTheFlags : Obligations.OnlyCommandsSetTheFlags := fun _ _ hstep =>
  ⟨command_of_step_sets_busy hstep, cause_of_step_changes_done_or_result hstep⟩

end Sys2Proof.Machine
end

section
/-! A write of an RW register through `step` (R63, R167). -/

namespace Sys2Proof.Machine

/-- R63: a write changes what no other register reads. The two halves of VALUE_IN, and the three registers of IN_BUF,
share a field of the state. -/
theorem readReg_storeReg_of_ne {r r' : Reg} (hne : r' ≠ r) (s : State) (v d : Word) :
    (s.storeReg v r).readReg d r' = s.readReg d r' := by
  cases r with
  | valueInLo =>
    cases r' with
    | valueInLo => exact absurd rfl hne
    | valueInHi => exact extractLsb'_high_append ..
    | _ => rfl
  | valueInHi =>
    cases r' with
    | valueInHi => exact absurd rfl hne
    | valueInLo => exact extractLsb'_low_append ..
    | _ => rfl
  | outCap =>
    cases r' with
    | outCap => exact absurd rfl hne
    | _ => rfl
  | inLen =>
    cases r' with
    | inLen => exact absurd rfl hne
    | _ => rfl
  | inBuf0 =>
    cases r' with
    | inBuf0 => exact absurd rfl hne
    | inBuf1 | inBuf2 => simp [State.storeReg, State.readReg]
    | _ => rfl
  | inBuf1 =>
    cases r' with
    | inBuf1 => exact absurd rfl hne
    | inBuf0 | inBuf2 => simp [State.storeReg, State.readReg]
    | _ => rfl
  | inBuf2 =>
    cases r' with
    | inBuf2 => exact absurd rfl hne
    | inBuf0 | inBuf1 => simp [State.storeReg, State.readReg]
    | _ => rfl
  | cmd | status | outBuf0 | outBuf1 | outBuf2 | outLen | valueOutLo | valueOutHi | reserved => rfl

/-- Settles O40: the step stores after taking the write out of the queue, and a store leaves every other field alone. -/
theorem operandWriteChangesOnlyItsRegister : Obligations.OperandWriteChangesOnlyItsRegister := by
  intro s v r rest hrw hdue hbus
  have hcmd : r ≠ .cmd := by
    rintro rfl
    cases hrw
  refine ⟨_, step_write_store hcmd hdue hbus, fun d => operandReadsBackAsWritten _ v d r hrw, fun d r' hne => ?_, ?_⟩
  · rw [readReg_storeReg_of_ne hne, readReg_afterEvent]
  · simp

end Sys2Proof.Machine
end

section
/-! The completion step (R162, R163, R166), and that it comes (R165, R231). -/

namespace Sys2Proof.Machine

/-! ### What a completion leaves -/

theorem runSnapshot_eq (S : Snapshot) :
    runSnapshot S = if S.op = .encode then encodeOp S.w.bits S.v S.c else decodeOp S.w.bits S.inp S.l := by
  unfold runSnapshot
  cases S.op with
  | encode => rfl
  | decode => rfl

theorem frameBuf_eq_ofFn (f : List Byte) : frameBuf f = Vector.ofFn fun k => f[k.val]? := by
  ext1 k hk
  rw [frameBuf_getElem, Vector.getElem_ofFn]

/-- Settles O30: the step is the end of the operation of the snapshot, and each way to end is one record update. -/
theorem completionWritesTheResultTable : Obligations.CompletionWritesTheResultTable := by
  intro s S hbusy hsnap ⟨hreset, hhold⟩
  have hstep := step_due (dueSnapshot_of hbusy hsnap hreset hhold)
  refine ⟨runSnapshot_eq S, fun f hend => ?_, fun v n hend => ?_, fun code hend => ?_⟩
  · rw [hstep, hend, ← frameBuf_eq_ofFn]
    rfl
  · rw [hstep, hend]
    rfl
  · rw [hstep, hend]
    rfl

/-- R166: ENCODE takes V and C of its snapshot, DECODE takes IN and L. -/
theorem runSnapshot_congr {S S' : Snapshot} (hop : S.op = S'.op) (hw : S.w = S'.w)
    (hencode : S.op = .encode → S.v = S'.v ∧ S.c = S'.c) (hdecode : S.op = .decode → S.inp = S'.inp ∧ S.l = S'.l) :
    runSnapshot S = runSnapshot S' := by
  rw [runSnapshot_eq, runSnapshot_eq, ← hop, ← hw]
  cases h : S.op with
  | encode =>
    obtain ⟨hv, hc⟩ := hencode h
    rw [hv, hc]
    rfl
  | decode =>
    obtain ⟨hinp, hl⟩ := hdecode h
    rw [hinp, hl]
    rfl

/-- R163: what an end of an operation leaves in RESULT and the result registers does not depend on the state. -/
theorem finish_results_eq (s s' : State) (e : OpEnd) :
    (s.finish e).result = (s'.finish e).result ∧ (s.finish e).outBuf = (s'.finish e).outBuf ∧
      (s.finish e).outLen = (s'.finish e).outLen ∧ (s.finish e).valueOut = (s'.finish e).valueOut := by
  cases e with
  | encoded | decoded | raised => exact ⟨rfl, rfl, rfl, rfl⟩

/-- Settles O31: the two operations end alike, and an end alone decides the results. -/
theorem completionDependsOnTheSnapshotAlone : Obligations.CompletionDependsOnTheSnapshotAlone := by
  intro s s' S S' hdue hdue' hop hw hencode hdecode
  refine ⟨_, _, step_due hdue, step_due hdue', ?_⟩
  rw [runSnapshot_congr hop hw hencode hdecode]
  exact finish_results_eq s s' _

/-! ### The completion comes -/

/-- The command of `S` is in flight, and the host keeps R62 and does not reset the block. -/
structure State.InFlight (s : State) (S : Snapshot) : Prop where
  busy : s.busy = true
  snap : s.snap = some S
  bus_allowed : ∀ e ∈ s.bus, e.allowed = true ∧ e ≠ .reset

theorem State.InFlight.afterEvent {s : State} {S : Snapshot} (hs : s.InFlight S) {e : BusEvent}
    {rest : List BusEvent} (hbus : s.bus = e :: rest) : (s.afterEvent rest).InFlight S where
  busy := hs.busy
  snap := hs.snap
  bus_allowed e' he' := hs.bus_allowed e' (hbus ▸ List.mem_cons_of_mem e he')

/-- R63, R161, R167: no access of the host ends the command in flight or hurries it. -/
theorem hostEvent_inFlight {s : State} {S : Snapshot} (hs : s.InFlight S) {e : BusEvent} (hallowed : e.allowed = true)
    (hreset : e ≠ .reset) : ∃ t, hostEvent e s = .next t ∧ t.InFlight S ∧ t.hold = s.hold := by
  cases e with
  | read off n => exact ⟨_, if_pos hallowed, ⟨hs.busy, hs.snap, hs.bus_allowed⟩, rfl⟩
  | write off n v =>
    have hwrite : hostEvent (.write off n v) s = busWrite (regAt off) v s := if_pos hallowed
    rw [hwrite]
    by_cases hcmd : regAt off = .cmd
    · rw [hcmd, busWrite_cmd, exec_busy _ hs.busy]
      exact ⟨s, rfl, hs, rfl⟩
    · rw [busWrite_store hcmd]
      refine ⟨_, rfl, ⟨?_, ?_, ?_⟩, State.storeReg_hold ..⟩
      · rw [State.storeReg_busy, hs.busy]
      · rw [State.storeReg_snap, hs.snap]
      · rw [State.storeReg_bus]
        exact hs.bus_allowed
  | wait =>
    refine ⟨_, rfl, ⟨?_, ?_, ?_⟩, State.poll_hold s⟩
    · rw [State.poll_busy, hs.busy]
    · rw [State.poll_snap, hs.snap]
    · rw [State.poll_bus, if_pos hs.busy]
      exact List.forall_mem_cons.2 ⟨⟨rfl, hreset⟩, hs.bus_allowed⟩
  | reset => exact absurd rfl hreset

/-- While the command is in flight a step completes it, or takes one of the host steps left before that. -/
theorem step_inFlight {s : State} {S : Snapshot} (hs : s.InFlight S) :
    step s = .next (s.finish (runSnapshot S)) ∨ ∃ t, step s = .next t ∧ t.InFlight S ∧ t.hold + 1 = s.hold := by
  have hreset : s.bus.head? ≠ some .reset := fun h => (hs.bus_allowed _ (List.mem_of_head? h)).2 rfl
  by_cases hnow : s.hold = 0 ∨ s.bus = []
  · exact .inl (step_due (dueSnapshot_of hs.busy hs.snap hreset hnow))
  · right
    obtain ⟨hhold, hbus⟩ := not_or.1 hnow
    obtain ⟨e, rest, hbus⟩ := List.exists_cons_of_ne_nil hbus
    have hdue : s.dueSnapshot = none := Option.eq_none_iff_forall_ne_some.2 fun S' h => by
      obtain ⟨-, -, -, hnow'⟩ := dueSnapshot_eq_some h
      exact hnow hnow'
    obtain ⟨hallowed, he⟩ := hs.bus_allowed e (by simp [hbus])
    obtain ⟨t, hevent, ht, hthold⟩ := hostEvent_inFlight (hs.afterEvent hbus) hallowed he
    refine ⟨t, (step_event hdue hbus).trans hevent, ht, ?_⟩
    rw [hthold, State.afterEvent_hold]
    omega

theorem run_succ {s t : State} (hstep : step s = .next t) (k : Nat) : core.run (k + 1) s = core.run k t := by
  have hcore : core.step s = .next t := hstep
  simp only [Host.Core.run, hcore]

/-- R165: the command completes within `hold + 1` steps, by induction on the host steps left before it. -/
theorem run_inFlight_completes {s : State} {S : Snapshot} (hs : s.InFlight S) :
    ∃ k u, k ≤ s.hold + 1 ∧ core.run k s = .next (State.finish u (runSnapshot S)) := by
  induction hhold : s.hold generalizing s with
  | zero =>
    rcases step_inFlight hs with hstep | ⟨t, -, -, hlt⟩
    · exact ⟨1, s, le_rfl, run_succ hstep 0⟩
    · omega
  | succ h ih =>
    rcases step_inFlight hs with hstep | ⟨t, hstep, ht, hlt⟩
    · exact ⟨1, s, by omega, run_succ hstep 0⟩
    · obtain ⟨k, u, hk, hrun⟩ := ih ht (by omega)
      exact ⟨k + 1, u, by omega, (run_succ hstep k).trans hrun⟩

/-- Settles O33: a command in flight completes, and the completion sets the flags. -/
theorem acceptedCommandCompletes : Obligations.AcceptedCommandCompletes := by
  intro s S hbusy hsnap hallowed hreset
  have hs : s.InFlight S :=
    ⟨hbusy, hsnap, fun e he => ⟨List.all_eq_true.1 hallowed e he, fun h => hreset (h ▸ he)⟩⟩
  obtain ⟨k, u, hk, hrun⟩ := run_inFlight_completes hs
  exact ⟨k, _, hk, hrun, State.finish_busy .., State.finish_done .., State.finish_result ..⟩

end Sys2Proof.Machine
end

section
/-! Only an undefined access stops a step (R62, R184, R192). -/

namespace Sys2Proof.Machine

/-- R184: a command answers next, whatever it is, and leaves what waits on the bus alone. -/
theorem exec_answers (i : Instr) (s : State) : ∃ t, exec i s = .next t ∧ t.bus = s.bus := by
  rcases exec_cases i s with ⟨-, h⟩ | ⟨-, w, -, h⟩ | ⟨-, w, -, h⟩ | ⟨-, -, h⟩
  · exact ⟨_, h, rfl⟩
  · exact ⟨_, h, State.accept_bus ..⟩
  · exact ⟨_, h, State.accept_bus ..⟩
  · exact ⟨_, h, State.illegal_bus _⟩

theorem busWrite_answers (r : Reg) (v : Word) (s : State) : ∃ t, busWrite r v s = .next t ∧ t.bus = s.bus := by
  by_cases hcmd : r = .cmd
  · rw [hcmd, busWrite_cmd]
    exact exec_answers ..
  · exact ⟨_, busWrite_store hcmd v s, State.storeReg_bus ..⟩

/-- R62: an allowed event answers next, and puts nothing on the bus that is not allowed: WAIT alone comes back. -/
theorem hostEvent_of_allowed {e : BusEvent} (he : e.allowed = true) {s : State} (hs : s.busAllowed = true) :
    ∃ t, hostEvent e s = .next t ∧ t.busAllowed = true := by
  cases e with
  | read off n => exact ⟨_, if_pos he, hs⟩
  | write off n v =>
    have hwrite : hostEvent (.write off n v) s = busWrite (regAt off) v s := if_pos he
    obtain ⟨t, ht, hbus⟩ := busWrite_answers (regAt off) v s
    exact ⟨t, hwrite.trans ht, by rwa [State.busAllowed, hbus]⟩
  | wait =>
    refine ⟨_, rfl, ?_⟩
    rw [State.busAllowed, State.poll_bus]
    split <;> exact hs
  | reset => exact ⟨_, rfl, hs⟩

/-- R192: a host that keeps R62 is never stopped. -/
theorem step_of_busAllowed {s : State} (hs : s.busAllowed = true) : ∃ t, step s = .next t ∧ t.busAllowed = true := by
  cases hdue : s.dueSnapshot with
  | some S => exact ⟨_, step_due hdue, by rwa [State.busAllowed, State.finish_bus]⟩
  | none =>
    cases hbus : s.bus with
    | nil => exact ⟨s, by rw [step_host hdue, hostTurn, hbus], hs⟩
    | cons e rest =>
      rw [State.busAllowed, hbus, List.all_cons, Bool.and_eq_true] at hs
      obtain ⟨he, hrest⟩ := hs
      rw [step_event hdue hbus]
      exact hostEvent_of_allowed he hrest

/-- Settles O34: a step that does not answer next is refused for an undefined access, and one is then waiting. -/
theorem onlyUndefinedAccessesStop : Obligations.OnlyUndefinedAccessesStop := by
  refine ⟨fun s r hfault => ?_, fun s r hrefused => ?_, fun s => step_of_busAllowed⟩
  · obtain ⟨hstop, -⟩ := step_stops (s := s) fun t hnext => by cases hfault.symm.trans hnext
    cases hfault.symm.trans hstop
  · have hnever : ∀ t, step s ≠ .next t := fun t hnext => by cases hrefused.symm.trans hnext
    obtain ⟨hstop, -⟩ := step_stops hnever
    refine ⟨Host.Outcome.refused.inj (hrefused.symm.trans hstop), Bool.eq_false_iff.2 fun hs => ?_⟩
    obtain ⟨t, hnext, -⟩ := step_of_busAllowed hs
    exact hnever t hnext

end Sys2Proof.Machine
end

section
/-! The step of an idle block (R189, R197). -/

namespace Sys2Proof.Machine

/-- Settles O49: with BUSY = 0 no completion is due, and of the other steps only a command and a reset write the flags or
a result register. -/
theorem resultsStayUntilTheNextCommand : Obligations.ResultsStayUntilTheNextCommand := by
  intro s t hidle hstep hnext
  rcases step_cases hstep with ⟨S, hdue, -⟩ | ⟨-, -, rfl⟩ | ⟨-, off, rest, -, -, rfl⟩ |
    ⟨-, off, c, rest, hbus, hdef, hcmd, -⟩ | ⟨-, off, c, rest, -, -, -, rfl⟩ | ⟨-, rest, -, rfl⟩ |
    ⟨-, rest, hbus, -⟩
  case inl =>
    rw [dueSnapshot_idle hidle] at hdue
    cases hdue
  case inr.inr.inr.inl =>
    obtain ⟨hnot, -⟩ := hnext _ _ hbus
    simp [BusEvent.isCmdWrite, hdef, hcmd] at hnot
  case inr.inr.inr.inr.inr.inr =>
    obtain ⟨-, hreset⟩ := hnext _ _ hbus
    exact absurd rfl hreset
  all_goals simp [hidle]

/-- Settles O50: no completion is due, and the host has no turn to take. -/
theorem idleBlockHoldsItsRegisters : Obligations.IdleBlockHoldsItsRegisters := by
  intro s hidle hbus
  rw [step_host (dueSnapshot_idle hidle), hostTurn, hbus]

end Sys2Proof.Machine
end

section
/-! The code an ENCODE ends with (R185), and the codes as STATUS shows them (R180). -/

namespace Sys2Proof.Machine

/-- R121, R185: the two checks that raise Overflow come before the capacity is looked at. -/
theorem encodeOp_of_overflow {W : Nat} {v : DWord}
    (h : (W > 63 ∧ (operandValue W v).toNat ≥ 2 ^ 63) ∨ needed (operandValue W v) > budget W) (C : Word) :
    encodeOp W v C = .raised .overflow := by
  by_cases hrange : W > 63 ∧ (operandValue W v).toNat ≥ 2 ^ 63
  · exact if_pos hrange
  · exact (if_neg hrange).trans (if_pos (h.resolve_left hrange))

/-- R124: past both checks the capacity decides. -/
theorem encodeOp_of_not_overflow {W : Nat} {v : DWord}
    (h : ¬ ((W > 63 ∧ (operandValue W v).toNat ≥ 2 ^ 63) ∨ needed (operandValue W v) > budget W)) (C : Word) :
    encodeOp W v C =
      if C.toNat < needed (operandValue W v) then .raised .bufferTooSmall
      else .encoded (emit (needed (operandValue W v)) (operandValue W v)) := by
  obtain ⟨hrange, hbudget⟩ := not_or.1 h
  exact (if_neg hrange).trans (if_neg hbudget)

/-- R185: BufferTooSmall is the verdict of the capacity check alone. -/
theorem checks_of_encodeOp_bufferTooSmall {W : Nat} {v : DWord} {C : Word}
    (hend : encodeOp W v C = .raised .bufferTooSmall) :
    ¬ (W > 63 ∧ (operandValue W v).toNat ≥ 2 ^ 63) ∧ needed (operandValue W v) ≤ budget W ∧
      C.toNat < needed (operandValue W v) := by
  have hpass : ¬ ((W > 63 ∧ (operandValue W v).toNat ≥ 2 ^ 63) ∨ needed (operandValue W v) > budget W) :=
    fun hoverflow => by cases (encodeOp_of_overflow hoverflow C).symm.trans hend
  obtain ⟨hrange, hbudget⟩ := not_or.1 hpass
  refine ⟨hrange, Nat.not_lt.1 hbudget, ?_⟩
  by_contra hfits
  rw [encodeOp_of_not_overflow hpass, if_neg hfits] at hend
  cases hend

/-- Settles O16, by the order of the checks; 2^63 at W = 64 fails the first one. -/
theorem encodeOverflowBeforeBufferTooSmall : Obligations.EncodeOverflowBeforeBufferTooSmall :=
  ⟨fun _ _ C => ⟨fun h => encodeOp_of_overflow h C, checks_of_encodeOp_bufferTooSmall⟩,
    encodeOp_of_overflow (.inl (by decide)) _⟩

/-- Settles O35: STATUS is `BUSY + 2 DONE + 16 RESULT`, and the two flags are below 4. -/
theorem statusCodeNumbers : Obligations.StatusCodeNumbers := by
  refine ⟨rfl, rfl, rfl, rfl, rfl, fun s => ?_⟩
  have hbusy := Bool.toNat_le s.busy
  have hdone := Bool.toNat_le s.done
  rw [statusWord_toNat]
  omega

end Sys2Proof.Machine
end

section
/-! Reset: the values it leaves (R211), that it comes before a due completion (R210), and the commands straight after it
(R213). -/

namespace Sys2Proof.Machine

/-! ### The values after reset -/

/-- R32: the reserved bits of OUT_BUF2 read 0, in every state and for every draw. -/
theorem readReg_outBuf2_lt (s : State) (d : Word) : (s.readReg d .outBuf2).toNat < 2 ^ 8 := by
  rw [State.readReg, laneWord_single_toNat]
  exact BitVec.isLt _

/-- R33: the reserved bits of OUT_LEN read 0, in every state and for every draw. -/
theorem readReg_outLen_lt (s : State) (d : Word) : (s.readReg d .outLen).toNat < 2 ^ 4 := by
  rw [readReg_outLen_toNat]
  exact BitVec.isLt _

theorem readReg_reset_of_rw {r : Reg} (hrw : r.access = .rw) (d : Word) : State.reset.readReg d r = 0#32 := by
  cases r with
  | valueInLo | valueInHi | outCap | inLen | inBuf0 | inBuf1 | inBuf2 => rfl
  | cmd | status | outBuf0 | outBuf1 | outBuf2 | outLen | valueOutLo | valueOutHi | reserved => cases hrw

/-- Settles O45, row by row of R211. -/
theorem resetValues : Obligations.ResetValues :=
  ⟨rfl, rfl, rfl, rfl, rfl, rfl, rfl, fun d =>
    ⟨rfl, fun _ hrw => readReg_reset_of_rw hrw d, rfl, rfl, readReg_outBuf2_lt _ d, readReg_outLen_lt _ d⟩⟩

/-! ### Reset at any time -/

/-- Settles O46: with a reset next no completion is due, so the step is the reset itself. -/
theorem resetWinsAndClearsTheBlock : Obligations.ResetWinsAndClearsTheBlock := by
  intro s rest hbus
  rw [step_event (dueSnapshot_reset hbus) hbus]
  rfl

/-! ### Commands straight after reset -/

/-- R162: an accepted command whose operation raises a code completes with that code. -/
theorem step_accepted_of_raised {s : State} {op : Op} {w : Width} {code : ResultCode}
    (hend : runSnapshot (s.snapshot op w) = .raised code) {q : List BusEvent} {h : Nat} (hnow : CompletesNow q h) :
    ∃ u, step { s.accept op w with bus := q, hold := h } = .next u ∧ u.done = true ∧ u.result = code := by
  refine ⟨_, step_accepted s op w hnow, State.finish_done .., ?_⟩
  rw [State.finish_result, hend]
  rfl

/-- R127: no frame fits a capacity of 0. -/
theorem runSnapshot_encode_of_outCap_zero {s : State} {w : Width} (hcap : s.outCap = 0#32)
    (hrange : ¬ (w.bits > 63 ∧ s.encodeValue w ≥ 2 ^ 63)) :
    runSnapshot (s.snapshot .encode w) = .raised .bufferTooSmall := by
  have hsmall : s.outCap.toNat < frameLength (s.encodeValue w) := hcap ▸ frameLength_pos _
  rw [runSnapshot_encode, if_neg hrange, if_pos hsmall]

/-- R147: with no input byte offered the scan is exhausted before the budget, whatever IN_BUF holds. -/
theorem runSnapshot_decode_of_inLen_zero {s : State} {w : Width} (hlen : s.inLen = 0#32) :
    runSnapshot (s.snapshot .decode w) = .raised .bufferTooSmall := by
  have hbudget : s.inLen.toNat < budget w.bits := hlen ▸ budget_pos (bits_pos w)
  have hdecode := decodeExhaustedByLength w.bits s.inBuf s.inLen (bits_pos w) fun k _ hk => by simp [hlen] at hk
  rwa [if_pos hbudget] at hdecode

theorem encodeValue_reset (w : Width) : State.reset.encodeValue w = 0 :=
  Nat.zero_mod _

/-- Settles O47: reset leaves OUT_CAP and IN_LEN 0, and a zero word is the command ILLEGAL_OP0. -/
theorem commandsStraightAfterReset : Obligations.CommandsStraightAfterReset := by
  refine ⟨fun w => ⟨_, exec_encode_idle rfl w, fun q h => step_accepted_of_raised ?_⟩,
    fun w => ⟨_, exec_decode_idle rfl w, fun q h => step_accepted_of_raised ?_⟩,
    State.reset.illegal, exec_illegal_idle (.inl (decodeWord_of_op_00 rfl)) rfl, rfl, rfl⟩
  · exact runSnapshot_encode_of_outCap_zero rfl (by simp [encodeValue_reset])
  · exact runSnapshot_decode_of_inLen_zero rfl

end Sys2Proof.Machine
end
